-- ==== Sys2Proof/Config.lean ====
section
/-!
DEFINITION. The open parameters of the engine (spec/00_scope.md R7): constants the spec names and gives no value. They are
opaque, so nothing can be proved of a particular value. The fixed sizes of R6 (8-byte block, 10-byte key, 32 round keys,
31 full rounds) are not parameters: they stand in the types and definitions that use them.
-/

namespace Sys2Proof.Config

/-- ENGINE_BASE: the host address of offset 0x00 (R7, R51; decision D1, OPEN; log 6). -/
opaque engineBase : Nat

/-- T_LOADKEY less one (R7, R244; D22, OPEN; log 7). -/
opaque loadkeyExtra : Nat

/-- T_CRYPT less one (R7, R244; D22, OPEN; log 7). -/
opaque cryptExtra : Nat

/-- T_ERR less one (R7, R244; D22, OPEN; log 7). -/
opaque errExtra : Nat

/-- T_LOADKEY, "a finite whole number of cycles, at least 1" (R244). -/
def tLoadkey : Nat := loadkeyExtra + 1

/-- T_CRYPT, at least 1 (R244). -/
def tCrypt : Nat := cryptExtra + 1

/-- T_ERR, at least 1 (R244). -/
def tErr : Nat := errExtra + 1

end Sys2Proof.Config
end

