-- ==== Sys2Proof/Word.lean ====
section
/-!
DEFINITION. The words of the go-present SPN cipher engine: the widths of spec/00_scope.md R8 (nibble 4, round counter 5,
byte 8, block 64, key register 80) and the 32 round keys of 64 bits of R6. Every value is an unsigned bit string, bit 0 the
least significant (R8).
-/

namespace Sys2Proof

/-- A byte: a host datum, a window offset, a push counter (R8, R10). -/
abbrev Byte := BitVec 8

/-- One S-box lane (R8: nibble, 4 bits). -/
abbrev Nibble := BitVec 4

/-- The round counter (R8, R34: 5 bits, 0..31). -/
abbrev RoundIndex := BitVec 5

/-- A block, a cipher state or a round key (R8: 64 bits). -/
abbrev Block := BitVec 64

/-- The key register (R8, R32: 80 bits). -/
abbrev KeyReg := BitVec 80

/-- The round-key file RK[0..31] (R6, R22). -/
abbrev RoundKeys := Vector Block 32

end Sys2Proof
end

