-- ==== Sys2Proof/Syntax.lean ====
section
/-!
DEFINITION. The engine's instructions: the command bytes (spec/30_encoding.md R80, R83, R84), one constructor for each row of
spec/opcode_table.json. A row whose pattern leaves bits free carries the whole command byte, since ILLEGAL(c) reports it (R177).
-/

namespace Sys2Proof

/-- A command (R80). LOADKEY, ENCRYPT and DECRYPT have implicit operands (R82). The seven ILLEGAL rows of R84 are the
illegal command bytes, split as the opcode table splits them. -/
inductive Instr where
  | loadkey              -- 0x01
  | encrypt              -- 0x02
  | decrypt              -- 0x03
  | illegal00            -- 0x00
  | illegal04 (c : Byte) -- 0x04 to 0x07
  | illegal08 (c : Byte) -- 0x08 to 0x0F
  | illegal10 (c : Byte) -- 0x10 to 0x1F
  | illegal20 (c : Byte) -- 0x20 to 0x3F
  | illegal40 (c : Byte) -- 0x40 to 0x7F
  | illegal80 (c : Byte) -- 0x80 to 0xFF
deriving DecidableEq, Repr

end Sys2Proof
end

