-- ==== Sys2Proof/WellFormed.lean ====
section
/-!
DEFINITION. Which commands are well formed: a row of the opcode table that carries its byte carries one that the row's
pattern matches (spec/30_encoding.md R84).
-/

namespace Sys2Proof

/-- A row of the opcode table: a byte matches it when its masked bits are the pattern (R83, R84: "match/mask pairs"). -/
structure OpcodeRow where
  pattern : Byte
  mask : Byte
deriving DecidableEq, Repr

/-- All the bits a row compares are those of its pattern. -/
def OpcodeRow.Matches (r : OpcodeRow) (c : Byte) : Bool := c &&& r.mask == r.pattern

/-- The row of each command, from R83 and R84 (spec/opcode_table.json). -/
def Instr.row : Instr → OpcodeRow
  | .loadkey => ⟨0x01, 0xFF⟩
  | .encrypt => ⟨0x02, 0xFF⟩
  | .decrypt => ⟨0x03, 0xFF⟩
  | .illegal00 => ⟨0x00, 0xFF⟩
  | .illegal04 _ => ⟨0x04, 0xFC⟩
  | .illegal08 _ => ⟨0x08, 0xF8⟩
  | .illegal10 _ => ⟨0x10, 0xF0⟩
  | .illegal20 _ => ⟨0x20, 0xE0⟩
  | .illegal40 _ => ⟨0x40, 0xC0⟩
  | .illegal80 _ => ⟨0x80, 0x80⟩

/-- The ten rows of the opcode table, in its order (R83, R84). -/
def opcodeRows : List OpcodeRow :=
  [⟨0x01, 0xFF⟩, ⟨0x02, 0xFF⟩, ⟨0x03, 0xFF⟩, ⟨0x00, 0xFF⟩, ⟨0x04, 0xFC⟩,
   ⟨0x08, 0xF8⟩, ⟨0x10, 0xF0⟩, ⟨0x20, 0xE0⟩, ⟨0x40, 0xC0⟩, ⟨0x80, 0x80⟩]

/-- A command that carries its byte carries one its own row matches (R84). -/
def Instr.wellFormed : Instr → Bool
  | .loadkey => true
  | .encrypt => true
  | .decrypt => true
  | .illegal00 => true
  | .illegal04 c => (Instr.illegal04 c).row.Matches c
  | .illegal08 c => (Instr.illegal08 c).row.Matches c
  | .illegal10 c => (Instr.illegal10 c).row.Matches c
  | .illegal20 c => (Instr.illegal20 c).row.Matches c
  | .illegal40 c => (Instr.illegal40 c).row.Matches c
  | .illegal80 c => (Instr.illegal80 c).row.Matches c

end Sys2Proof
end

