-- ==== Sys2Proof/Decode.lean ====
section
/-!
DEFINITION. The decoder and the encoder of the command byte (spec/30_encoding.md R80 to R85). The decoder is total: the ten
rows of the opcode table match each of the 256 bytes exactly once (R84), so no byte is left to reject.
-/

namespace Sys2Proof

/-- The command a byte written to CMD stands for; all 8 bits are compared (R81, R83, R84). The rows are tried in the table's
order. A byte that no row before the last one matches has bit 7 set, so the last row needs no test. -/
def decode (c : Byte) : Instr :=
  if c &&& 0xFF = 0x01 then .loadkey
  else if c &&& 0xFF = 0x02 then .encrypt
  else if c &&& 0xFF = 0x03 then .decrypt
  else if c &&& 0xFF = 0x00 then .illegal00
  else if c &&& 0xFC = 0x04 then .illegal04 c
  else if c &&& 0xF8 = 0x08 then .illegal08 c
  else if c &&& 0xF0 = 0x10 then .illegal10 c
  else if c &&& 0xE0 = 0x20 then .illegal20 c
  else if c &&& 0xC0 = 0x40 then .illegal40 c
  else .illegal80 c

/-- The command byte of a command (R83, R84). Every command is exactly one byte (R85). -/
def encode : Instr → Byte
  | .loadkey => 0x01
  | .encrypt => 0x02
  | .decrypt => 0x03
  | .illegal00 => 0x00
  | .illegal04 c => c
  | .illegal08 c => c
  | .illegal10 c => c
  | .illegal20 c => c
  | .illegal40 c => c
  | .illegal80 c => c

/-- The byte whose low `nbits` bits are those of `w`, and whose bits above them are 0. -/
def tableByte (nbits w : Nat) : Byte := BitVec.ofNat 8 (w % 2 ^ nbits)

/-- The instruction the decoder reads from an opcode-table word. A word of more than 8 bits is no command: "Every command is
exactly one byte" (R85). -/
def decodeTableWord (nbits w : Nat) : Option Instr :=
  if nbits ≤ 8 then some (decode (tableByte nbits w)) else none

end Sys2Proof
end

