-- ==== Sys2Proof/Machine/SBox.lean ====
section
/-!
DEFINITION. The S-box unit: the two constant tables of spec/40_sbox.md, entry by entry (R103: literal tables, not a formula).
-/

namespace Sys2Proof.Machine

/-- The forward table (R100). -/
def sboxTable : Vector Nibble 16 :=
  #v[0xC, 0x5, 0x6, 0xB, 0x9, 0x0, 0xA, 0xD, 0x3, 0xE, 0xF, 0x8, 0x4, 0x7, 0x1, 0x2]

/-- The inverse table (R101). -/
def sboxInvTable : Vector Nibble 16 :=
  #v[0x5, 0xE, 0xF, 0x8, 0xC, 0x1, 0x2, 0xD, 0xB, 0x4, 0x6, 0x3, 0x0, 0x7, 0x9, 0xA]

/-- S[x] (R100). -/
def sbox (x : Nibble) : Nibble := sboxTable[x.toNat]'x.isLt

/-- SI[x] (R101). -/
def sboxInv (x : Nibble) : Nibble := sboxInvTable[x.toNat]'x.isLt

end Sys2Proof.Machine
end

