-- ==== Sys2Proof/Machine/KeySchedule.lean ====
section
/-!
DEFINITION. The key schedule generator of spec/41_key_schedule.md. `keyUpdate` is the step the engine's sequencer runs;
`keySchedule` is the schedule as one pure function of the key (R127), against which the sequencer is stated to agree.
-/

namespace Sys2Proof.Machine

/-- Step 1: rotate left by 61 over 80 bits, (R[18:0], R[79:19]) (R123). -/
def rotateKey (r : KeyReg) : KeyReg := r.extractLsb' 0 19 ++ r.extractLsb' 19 61

/-- Step 2: the forward S-box on bits 79..76, bits 75..0 unchanged (R124). -/
def substituteTop (r : KeyReg) : KeyReg := sbox (r.extractLsb' 76 4) ++ r.extractLsb' 0 76

/-- Step 3: the round counter into bits 19..15, its top bit into bit 19 (R125; 90_conflicts.md C1). -/
def injectCounter (r : KeyReg) (i : RoundIndex) : KeyReg := r ^^^ (i.setWidth 80 <<< 15)

/-- KeyUpdate(R, i): steps 1 to 3 (R127). -/
def keyUpdate (r : KeyReg) (i : RoundIndex) : KeyReg := injectCounter (substituteTop (rotateKey r)) i

/-- R[79:16], the round key in a key register (R122, R126). -/
def roundKeyOf (r : KeyReg) : Block := r.extractLsb' 16 64

/-- The key register after `i` updates from key `K` (R121, R126, R127). -/
def keyRegister (K : KeyReg) : Nat → KeyReg
  | 0 => K
  | i + 1 => keyUpdate (keyRegister K i) (BitVec.ofNat 5 (i + 1))

/-- KeySchedule(K): RK[i] is bits 79..16 of the register after i updates (R127). -/
def keySchedule (K : KeyReg) : RoundKeys := Vector.ofFn fun i => roundKeyOf (keyRegister K i.val)

/-- RK[i] (R22). -/
def roundKey (rk : RoundKeys) (i : RoundIndex) : Block := rk[i.toNat]'i.isLt

/-- RK[i] <- k (R181). -/
def setRoundKey (rk : RoundKeys) (i : RoundIndex) (k : Block) : RoundKeys := rk.set i.toNat k i.isLt

end Sys2Proof.Machine
end

