-- ==== Sys2Proof/Machine/RoundTransform.lean ====
section
/-!
DEFINITION. The round transform of spec/42_round_transform.md: key mixing, the substitution layers, the permutation layers and
the two round functions. Bit indices are LSB-0 (R8); P is the same map under the source's logical positions (R144).
-/

namespace Sys2Proof.Machine

/-- Round-key mixing (R140). -/
def addRoundKey (s k : Block) : Block := s ^^^ k

/-- The lanes below `n` of a substituted state: lane i is bits 4i+3..4i (R141). -/
def substituteLanes (box : Nibble → Nibble) (s : Block) : Nat → Block
  | 0 => 0
  | n + 1 => substituteLanes box s n ||| ((box (s.extractLsb' (4 * n) 4)).setWidth 64 <<< (4 * n))

/-- Forward substitution of all 16 lanes (R141). -/
def sLayer (s : Block) : Block := substituteLanes sbox s 16

/-- Inverse substitution of all 16 lanes (R142). -/
def sLayerInv (s : Block) : Block := substituteLanes sboxInv s 16

/-- P: p goes to 16p mod 63 for p in 0..62, and 63 stays (R143). -/
def permIndex (p : Nat) : Nat := if p = 63 then 63 else 16 * p % 63

/-- Bit `src` of `s`, moved to position `dst` of an otherwise zero state. -/
def movedBit (s : Block) (src dst : Nat) : Block := ((s >>> src) &&& 1) <<< dst

/-- `for j = 0..n-1: out[P(j)] <- s[j]`, from out = 0 (R146). -/
def permuteBits (s : Block) : Nat → Block
  | 0 => 0
  | j + 1 => permuteBits s j ||| movedBit s j (permIndex j)

/-- The forward permutation: the bit at j moves to P(j) (R146). -/
def pLayer (s : Block) : Block := permuteBits s 64

/-- `for j = 0..n-1: out[j] <- s[P(j)]`, from out = 0 (R147). -/
def permuteInvBits (s : Block) : Nat → Block
  | 0 => 0
  | j + 1 => permuteInvBits s j ||| movedBit s (permIndex j) j

/-- The inverse permutation (R147). -/
def pLayerInv (s : Block) : Block := permuteInvBits s 64

/-- One encryption round: key-mix, substitute, permute (R148). -/
def cipherRound (s k : Block) : Block := pLayer (sLayer (addRoundKey s k))

/-- One decryption round: key-mix, inverse permute, inverse substitute (R148). -/
def cipherRoundInv (s k : Block) : Block := sLayerInv (pLayerInv (addRoundKey s k))

end Sys2Proof.Machine
end

