-- ==== Sys2Proof/Machine/Cipher.lean ====
section
/-!
DEFINITION. The pure cipher functions of spec/43_commands.md, R171 and R172: what the ENCRYPT and DECRYPT commands compute. The
engine's meanings do not call them: they run the sequencer of R182 and R183, and the statements say that the two agree.
-/

namespace Sys2Proof.Machine

/-- The state after the rounds i = 0..n-1 of Encrypt (R171). -/
def encryptRounds (rk : RoundKeys) (s : Block) : Nat → Block
  | 0 => s
  | n + 1 => cipherRound (encryptRounds rk s n) (roundKey rk (BitVec.ofNat 5 n))

/-- Encrypt(RK, s): 31 rounds, then the final key mix with RK[31] (R171). -/
def encryptBlock (rk : RoundKeys) (s : Block) : Block := addRoundKey (encryptRounds rk s 31) (roundKey rk 31)

/-- The state after the rounds i = 31, 30, ..., 32-n of Decrypt (R172). -/
def decryptRounds (rk : RoundKeys) (s : Block) : Nat → Block
  | 0 => s
  | n + 1 => cipherRoundInv (decryptRounds rk s n) (roundKey rk (BitVec.ofNat 5 (31 - n)))

/-- Decrypt(RK, s): rounds 31 down to 1, then the final key mix with RK[0] (R172). -/
def decryptBlock (rk : RoundKeys) (s : Block) : Block := addRoundKey (decryptRounds rk s 31) (roundKey rk 0)

end Sys2Proof.Machine
end

