-- ==== Sys2Proof/Machine/State.lean ====
section
/-!
DEFINITION. The state of the machine: the engine's thirteen pieces of state (spec/10_state.md R20, "and nothing else"), and
beside them the host's side of the bus, which the fixed interface asks State to carry: the accesses the host has still to make,
and the bytes its reads have returned (spec/20_memory.md R71; log 1, log 3).
-/

namespace Sys2Proof.Machine

/-- PHASE, the sequencer state (R35). -/
inductive Phase where
  | idle
  | keysched
  | enc
  | dec
deriving DecidableEq, Repr

/-- Where a host bus access lands (R51): on a window offset, or on a host address outside the window. -/
inductive Target where
  | window (off : Byte)
  | elsewhere (addr : Nat)
deriving DecidableEq, Repr

/-- One interaction of the host with the engine (R71), with the access size in bytes where it is a bus access (R63).
`resetDuringCommand c k` is a write of command byte `c` that is still held when reset is asserted, `k` internal steps of
the command after it began (R231; log 8). -/
inductive HostAccess where
  | read (t : Target) (size : Nat)
  | write (t : Target) (size : Nat) (v : Byte)
  | reset
  | resetDuringCommand (c : Byte) (k : Nat)
deriving DecidableEq, Repr

/-- The engine's state, exactly the tuple of R20 in its order. -/
structure Engine where
  /-- RK[0..31], the round-key file (R22). -/
  rk : RoundKeys
  /-- KEYVALID (R23). -/
  keyValid : Bool
  /-- KEY_BUF[0..9] (R24). -/
  keyBuf : Vector Byte 10
  /-- KEY_CNT, saturating push counter (R25). -/
  keyCnt : Byte
  /-- BLK_BUF[0..7] (R26). -/
  blkBuf : Vector Byte 8
  /-- BLK_CNT, saturating push counter (R27). -/
  blkCnt : Byte
  /-- BLOCK_OUT[0..7] (R28). -/
  blockOut : Vector Byte 8
  /-- ERR, STATUS[2:0] (R29). -/
  err : BitVec 3
  /-- ERR_INFO (R30). -/
  errInfo : Byte
  /-- KSR, the key schedule register (R32). -/
  ksr : KeyReg
  /-- ST, the datapath register (R33). -/
  st : Block
  /-- RND, the round counter (R34). -/
  rnd : RoundIndex
  /-- PHASE (R35). -/
  phase : Phase
deriving DecidableEq, Repr

/-- The engine and the host's side of its one port. -/
structure State where
  /-- The engine (R20). -/
  engine : Engine
  /-- The host's accesses still to come, the next one first (R67, R71; log 1). -/
  pending : List HostAccess
  /-- The bytes the host's reads returned, the first one first (R71; log 3). -/
  observed : List Byte
deriving DecidableEq, Repr

/-- The machine never faults: "An error is an outcome of a command, never a trap" (R200), and no access raises one (R216).
There is no constructor, so no step can answer a fault (log 13). -/
inductive Fault
deriving DecidableEq, Repr

/-- Why the machine refuses to go on. -/
inductive Refusal where
  /-- An instruction without a meaning. No arm of exec raises it. Safe: the run stops. -/
  | notModelled (mnemonic : String)
  /-- A host access of a size other than one byte, raised by the host port; "the hardware has no such access, so refusing
  errs toward unprovable" (R63, I10; log 5). Safe. -/
  | unsupportedWidth (size : Nat)
  /-- A host access outside the window, raised by the host port; what it does is "the platform's business" (R51, I9; log 4).
  Safe. -/
  | outsideWindow (addr : Nat)
deriving DecidableEq, Repr

/-- Every piece of engine state at the value R230 gives. -/
def Engine.reset : Engine where
  rk := Vector.replicate 32 0
  keyValid := false
  keyBuf := Vector.replicate 10 0
  keyCnt := 0
  blkBuf := Vector.replicate 8 0
  blkCnt := 0
  blockOut := Vector.replicate 8 0
  err := 0
  errInfo := 0
  ksr := 0
  st := 0
  rnd := 0
  phase := .idle

/-- Right after reset: the engine as R230 says; no access asked for yet and none observed (log 1, log 3). -/
def State.reset : State where
  engine := Engine.reset
  pending := []
  observed := []

end Sys2Proof.Machine
end

