-- ==== Sys2Proof/Machine/Flags.lean ====
section
/-!
DEFINITION. The status flags: the error codes of spec/60_exceptions.md R201 and the STATUS byte of spec/10_state.md R31.
-/

namespace Sys2Proof.Machine

/-- The outcomes of a command, by name (R201). -/
inductive ErrCode where
  | none
  | keySize
  | blockSize
  | noKey
  | illegalCmd
deriving DecidableEq, Repr

/-- The 3-bit code of an outcome (R201; codes 5 to 7 are not used). -/
def errBits : ErrCode → BitVec 3
  | .none => 0
  | .keySize => 1
  | .blockSize => 2
  | .noKey => 3
  | .illegalCmd => 4

/-- STATUS = (KEYVALID, 0b0000, ERR), KEYVALID in bit 7 (R31). -/
def status (e : Engine) : Byte := BitVec.ofBool e.keyValid ++ 0#4 ++ e.err

end Sys2Proof.Machine
end

