-- ==== Sys2Proof/Machine/Operands.lean ====
section
/-!
DEFINITION. The implicit operands of the commands (spec/30_encoding.md R82) and the byte order of keys and blocks, most
significant byte first (spec/00_scope.md R10; spec/20_memory.md R60, R61).
-/

namespace Sys2Proof.Machine

/-- `be(B)`: the bytes as one unsigned integer, B[0] most significant (R10). -/
def beNat (bs : List Byte) : Nat := bs.foldl (fun acc b => acc * 256 + b.toNat) 0

/-- `be_80` of ten bytes (R10, R60). -/
def be80 (bs : Vector Byte 10) : KeyReg := BitVec.ofNat 80 (beNat bs.toList)

/-- `be_64` of eight bytes (R10, R61). -/
def be64 (bs : Vector Byte 8) : Block := BitVec.ofNat 64 (beNat bs.toList)

/-- `bytes_be_8`: the eight bytes of a block, byte 0 from bits 63..56 (R10, R61). -/
def bytesBe8 (v : Block) : Vector Byte 8 := Vector.ofFn fun k => v.extractLsb' (8 * (7 - k.val)) 8

/-- The key operand of LOADKEY (R60, R82, R121). -/
def keyOperand (e : Engine) : KeyReg := be80 e.keyBuf

/-- The block operand of ENCRYPT and DECRYPT (R61, R82). -/
def blockOperand (e : Engine) : Block := be64 e.blkBuf

end Sys2Proof.Machine
end

