-- ==== Sys2Proof/Machine/Ops.lean ====
section
/-!
DEFINITION. The named operations over the engine's registers: the push ports, the host's read of one byte, the result
buffer, and how a command ends. The engine has no traps; what takes the place of taking an exception is `raise`
(spec/60_exceptions.md R207), one shared operation. There is no return from it (R208).
-/

namespace Sys2Proof.Machine

/-- The state with another engine; the host's side of the bus as it was. -/
def State.withEngine (s : State) (e : Engine) : State := { s with engine := e }

/-- The state after a read returned `b` (R71). -/
def State.observe (s : State) (b : Byte) : State := { s with observed := s.observed ++ [b] }

/-- `min(n + 1, 255)` on a push counter (R54, R55): it saturates and never wraps. -/
def saturatingInc (n : Byte) : Byte := if n = 255 then 255 else n + 1

/-- PushKey(v) (R54): a byte past the tenth is counted, not stored. -/
def pushKey (v : Byte) (e : Engine) : Engine :=
  { e with
    keyBuf := if h : e.keyCnt.toNat < 10 then e.keyBuf.set e.keyCnt.toNat v h else e.keyBuf
    keyCnt := saturatingInc e.keyCnt }

/-- PushBlock(v) (R55): a byte past the eighth is counted, not stored. -/
def pushBlock (v : Byte) (e : Engine) : Engine :=
  { e with
    blkBuf := if h : e.blkCnt.toNat < 8 then e.blkBuf.set e.blkCnt.toNat v h else e.blkBuf
    blkCnt := saturatingInc e.blkCnt }

/-- BLOCK_OUT as the window shows it, and 0x00 at every offset outside 0x08..0x0F (R52). -/
def blockOutByte (e : Engine) (off : Byte) : Byte :=
  if h : 8 ≤ off.toNat ∧ off.toNat < 16 then e.blockOut[off.toNat - 8]'(by omega) else 0

/-- MemRead(off, 1) (R52): one byte, no state change, defined at every offset. -/
def memRead (off : Byte) (e : Engine) : Byte :=
  if off = 0x03 then status e
  else if off = 0x04 then e.errInfo
  else if off = 0x05 then e.keyCnt
  else if off = 0x06 then e.blkCnt
  else blockOutByte e off

/-- KEY_CNT <- 0 (R174, D16). -/
def clearKeyCnt (e : Engine) : Engine := { e with keyCnt := 0 }

/-- BLK_CNT <- 0 (R175, R176, D16). -/
def clearBlkCnt (e : Engine) : Engine := { e with blkCnt := 0 }

/-- ERR and ERR_INFO, which every command writes (R29, R30). -/
def setOutcome (c : ErrCode) (info : Byte) (e : Engine) : Engine := { e with err := errBits c, errInfo := info }

/-- Complete() (R178). -/
def complete (e : Engine) : Engine := { e with ksr := 0, st := 0, rnd := 0, phase := .idle }

/-- `raise E(info)` (R207): write ERR and ERR_INFO, end the command, Complete(). What the command wrote before stays. -/
def raise (c : ErrCode) (info : Byte) (e : Engine) : Engine := complete (setOutcome c info e)

/-- The end of a command that succeeds: ERR <- NONE, ERR_INFO <- 0x00, Complete() (R174, R175, R176, R178). -/
def finish (e : Engine) : Engine := complete (setOutcome .none 0 e)

/-- BLOCK_OUT[0..7] <- bytes_be_8(v) (R61, R175, R176). -/
def emitBlock (v : Block) (e : Engine) : Engine := { e with blockOut := bytesBe8 v }

/-- Reset asserted: the reset state, whatever the state was (R230, R231). -/
def assertReset (_ : Engine) : Engine := Engine.reset

end Sys2Proof.Machine
end

