-- ==== Sys2Proof/Machine/Sequencer.lean ====
section
/-!
DEFINITION. The internal sequencer (spec/43_commands.md R181, R182, R183; R151: one round unit, used once per round step). A
command loads the working registers and leaves IDLE; `tick` is one internal step, chosen by PHASE and RND alone; the command
ends when PHASE is IDLE again. The grain of a tick cannot be observed (log 9).
-/

namespace Sys2Proof.Machine

/-- The head of the LOADKEY sequence, up to `RK[0] <- KSR[79:16]` (R181). R181 first gives RND a value in its loop, 1; that RND
stands at 0 before the loop is the model's (DESIGN CHOICE, log 9). -/
def startKeySchedule (e : Engine) : Engine :=
  { e with
    phase := .keysched
    keyValid := false
    ksr := keyOperand e
    rk := setRoundKey e.rk 0 (roundKeyOf (keyOperand e))
    rnd := 0 }

/-- One pass of R181's loop, with RND the round counter of the pass. -/
def keyScheduleStep (e : Engine) : Engine :=
  { e with
    rnd := e.rnd + 1
    ksr := keyUpdate e.ksr (e.rnd + 1)
    rk := setRoundKey e.rk (e.rnd + 1) (roundKeyOf (keyUpdate e.ksr (e.rnd + 1))) }

/-- The head of the ENCRYPT sequence (R182). -/
def startEncrypt (e : Engine) : Engine := { e with phase := .enc, st := blockOperand e, rnd := 0 }

/-- One round step of ENCRYPT (R182). -/
def encryptStep (e : Engine) : Engine :=
  { e with st := cipherRound e.st (roundKey e.rk e.rnd), rnd := e.rnd + 1 }

/-- The head of the DECRYPT sequence (R183). -/
def startDecrypt (e : Engine) : Engine := { e with phase := .dec, st := blockOperand e, rnd := 31 }

/-- One round step of DECRYPT (R183). After the pass with RND = 1 it leaves RND at 0, one below the last value of R183's loop
(DESIGN CHOICE, log 9). -/
def decryptStep (e : Engine) : Engine :=
  { e with st := cipherRoundInv e.st (roundKey e.rk e.rnd), rnd := e.rnd - 1 }

/-- One internal step. The last one of a sequence does the final key whitening (R182, R183) or sets KEYVALID (R181), writes
the outcome and completes. In IDLE nothing happens (R35, R232).

DESIGN CHOICE (log 9): what RND reads in a sequence's last step, after the loop, which the spec leaves open (R34 gives ENCRYPT the
indices 0..30 and DECRYPT 31 down to 1; R182's and R183's loops end there). The model counts on: RND is 31 in ENCRYPT's whitening
and 0 in DECRYPT's; in LOADKEY's setting of KEYVALID it is still 31. The last step then completes, which sets RND to 0 (R178), so
no host access sees any of these values (R34, R170). -/
def tick (e : Engine) : Engine :=
  match e.phase with
  | .idle => e
  | .keysched => if e.rnd = 31 then finish { e with keyValid := true } else keyScheduleStep e
  | .enc => if e.rnd = 31 then finish (emitBlock (addRoundKey e.st (roundKey e.rk 31)) e) else encryptStep e
  | .dec => if e.rnd = 0 then finish (emitBlock (addRoundKey e.st (roundKey e.rk 0)) e) else decryptStep e

/-- `n` internal steps. -/
def runTicks : Nat → Engine → Engine
  | 0, e => e
  | n + 1, e => runTicks n (tick e)

/-- The internal steps of a whole command: "exactly 32 discrete steps" (R182, R183); LOADKEY's 31 update steps and the
setting of KEYVALID (R181). -/
def commandTicks : Nat := 32

end Sys2Proof.Machine
end

