-- ==== Sys2Proof/Machine/Commands.lean ====
section
/-!
DEFINITION. The commands of spec/43_commands.md: what each checks and consumes first (`begin…`), and its whole meaning
(`exec…`), the sequence run to its end inside the one step (R170). A command that raises is over at once: PHASE is IDLE and the
sequencer does nothing more (R207).
-/

namespace Sys2Proof.Machine

/-- LOADKEY up to the start of its sequence: KEY_CNT consumed, KEY_SIZE exactly when it was not 10 (R174, R202). -/
def beginLoadkey (e : Engine) : Engine :=
  if e.keyCnt ≠ 10 then raise .keySize e.keyCnt (clearKeyCnt e)
  else startKeySchedule (clearKeyCnt e)

/-- The checks ENCRYPT and DECRYPT share: BLK_CNT consumed, NO_KEY before BLOCK_SIZE (R175, R176, R206). -/
def beginCrypt (start : Engine → Engine) (e : Engine) : Engine :=
  if e.keyValid = false then raise .noKey 0 (clearBlkCnt e)
  else if e.blkCnt ≠ 8 then raise .blockSize e.blkCnt (clearBlkCnt e)
  else start (clearBlkCnt e)

/-- ENCRYPT up to the start of its sequence (R175). -/
def beginEncrypt (e : Engine) : Engine := beginCrypt startEncrypt e

/-- DECRYPT up to the start of its sequence (R176). -/
def beginDecrypt (e : Engine) : Engine := beginCrypt startDecrypt e

/-- ILLEGAL(c): raise ILLEGAL_CMD(c), nothing else (R177, R205). -/
def beginIllegal (c : Byte) (e : Engine) : Engine := raise .illegalCmd c e

/-- The engine when command `i` has been accepted and its sequence, if any, is about to run. -/
def beginCommand : Instr → Engine → Engine
  | .loadkey, e => beginLoadkey e
  | .encrypt, e => beginEncrypt e
  | .decrypt, e => beginDecrypt e
  | .illegal00, e => beginIllegal 0x00 e
  | .illegal04 c, e => beginIllegal c e
  | .illegal08 c, e => beginIllegal c e
  | .illegal10 c, e => beginIllegal c e
  | .illegal20 c, e => beginIllegal c e
  | .illegal40 c, e => beginIllegal c e
  | .illegal80 c, e => beginIllegal c e

/-- A begun command run to its end; every command ends in a next state (R170, R200). -/
def runCommand (begun : Engine → Engine) (s : State) : Host.Outcome State Fault Refusal :=
  .next (s.withEngine (runTicks commandTicks (begun s.engine)))

/-- LOADKEY (R174, R181). -/
def execLoadkey (s : State) : Host.Outcome State Fault Refusal := runCommand beginLoadkey s

/-- ENCRYPT (R175, R182). -/
def execEncrypt (s : State) : Host.Outcome State Fault Refusal := runCommand beginEncrypt s

/-- DECRYPT (R176, R183). -/
def execDecrypt (s : State) : Host.Outcome State Fault Refusal := runCommand beginDecrypt s

/-- ILLEGAL(0x00) (R177). -/
def execIllegal00 (s : State) : Host.Outcome State Fault Refusal := runCommand (beginIllegal 0x00) s

/-- ILLEGAL(c), c in 0x04..0x07 (R177). -/
def execIllegal04 (c : Byte) (s : State) : Host.Outcome State Fault Refusal := runCommand (beginIllegal c) s

/-- ILLEGAL(c), c in 0x08..0x0F (R177). -/
def execIllegal08 (c : Byte) (s : State) : Host.Outcome State Fault Refusal := runCommand (beginIllegal c) s

/-- ILLEGAL(c), c in 0x10..0x1F (R177). -/
def execIllegal10 (c : Byte) (s : State) : Host.Outcome State Fault Refusal := runCommand (beginIllegal c) s

/-- ILLEGAL(c), c in 0x20..0x3F (R177). -/
def execIllegal20 (c : Byte) (s : State) : Host.Outcome State Fault Refusal := runCommand (beginIllegal c) s

/-- ILLEGAL(c), c in 0x40..0x7F (R177). -/
def execIllegal40 (c : Byte) (s : State) : Host.Outcome State Fault Refusal := runCommand (beginIllegal c) s

/-- ILLEGAL(c), c in 0x80..0xFF (R177). -/
def execIllegal80 (c : Byte) (s : State) : Host.Outcome State Fault Refusal := runCommand (beginIllegal c) s

end Sys2Proof.Machine
end

