-- ==== Sys2Proof/Machine/Dispatch.lean ====
section
/-! DEFINITION. One arm per command: each calls its own meaning (spec/43_commands.md R170). -/

namespace Sys2Proof.Machine

def exec (i : Instr) (s : State) : Host.Outcome State Fault Refusal :=
  match i with
  | .loadkey => Sys2Proof.Machine.execLoadkey s
  | .encrypt => Sys2Proof.Machine.execEncrypt s
  | .decrypt => Sys2Proof.Machine.execDecrypt s
  | .illegal00 => Sys2Proof.Machine.execIllegal00 s
  | .illegal04 c => Sys2Proof.Machine.execIllegal04 c s
  | .illegal08 c => Sys2Proof.Machine.execIllegal08 c s
  | .illegal10 c => Sys2Proof.Machine.execIllegal10 c s
  | .illegal20 c => Sys2Proof.Machine.execIllegal20 c s
  | .illegal40 c => Sys2Proof.Machine.execIllegal40 c s
  | .illegal80 c => Sys2Proof.Machine.execIllegal80 c s

end Sys2Proof.Machine
end

