-- ==== Sys2Proof/Machine/HostPort.lean ====
section
/-!
DEFINITION. The host port (spec/20_memory.md): where a host address lands, MemRead and MemWrite at every window offset, the
refusals of accesses the engine does not have, and reset.
-/

namespace Sys2Proof.Machine

/-- Host address ENGINE_BASE + off reaches offset off; any other address is outside the window (R51). -/
def targetOf (addr : Nat) : Target :=
  if Config.engineBase ≤ addr ∧ addr < Config.engineBase + 256 then .window (BitVec.ofNat 8 (addr - Config.engineBase))
  else .elsewhere addr

/-- `rd off`: the host observes the byte of MemRead; the engine does not change (R52, R66). -/
def hostRead (off : Byte) (s : State) : Host.Outcome State Fault Refusal := .next (s.observe (memRead off s.engine))

/-- MemWrite(off, 1, v) (R53): a push, a command, or no state change (R57). -/
def memWrite (off v : Byte) (s : State) : Host.Outcome State Fault Refusal :=
  if off = 0x00 then .next (s.withEngine (pushKey v s.engine))
  else if off = 0x01 then .next (s.withEngine (pushBlock v s.engine))
  else if off = 0x02 then exec (decode v) s
  else .next s

/-- The engine `k` internal steps into the command of byte `c` (R170, R181 to R183). -/
def partialCommand (c : Byte) (k : Nat) (e : Engine) : Engine := runTicks k (beginCommand (decode c) e)

/-- A bus access of `size` bytes: only one-byte accesses inside the window exist (R51, R63). -/
def busAccess (t : Target) (size : Nat) (act : Byte → Host.Outcome State Fault Refusal) :
    Host.Outcome State Fault Refusal :=
  match t with
  | .elsewhere addr => .refused (.outsideWindow addr)
  | .window off => if size = 1 then act off else .refused (.unsupportedWidth size)

/-- One host interaction (R71). Reset while a command is held abandons it, whatever part of it had run (R231). -/
def serve (a : HostAccess) (s : State) : Host.Outcome State Fault Refusal :=
  match a with
  | .read t size => busAccess t size fun off => hostRead off s
  | .write t size v => busAccess t size fun off => memWrite off v s
  | .reset => .next (s.withEngine (assertReset s.engine))
  | .resetDuringCommand c k => .next (s.withEngine (assertReset (partialCommand c k s.engine)))

/-- Take the host's next access off the list; with none pending the engine waits in IDLE (R67, R232; log 2). -/
def serveNext (s : State) : Host.Outcome State Fault Refusal :=
  match s.pending with
  | [] => .next s
  | a :: rest => serve a { s with pending := rest }

end Sys2Proof.Machine
end

