-- ==== Sys2Proof/Machine/Step.lean ====
section
/-!
DEFINITION. One step of the machine: the host's next access, performed whole (spec/00_scope.md R13: each host bus access is one
step). The engine fetches nothing (spec/20_memory.md R68); the place where the next instruction comes from is the host's next
write to CMD, and `withFetchWord` puts one there (log 12).
-/

namespace Sys2Proof.Machine

/-- One step (R13, R67). -/
def step (s : State) : Host.Outcome State Fault Refusal := serveNext s

/-- The state whose next host access writes this command byte to CMD (R80; log 12). -/
def State.withFetchWord (s : State) (nbits w : Nat) : State :=
  { s with pending := .write (.window 0x02) 1 (tableByte nbits w) :: s.pending }

end Sys2Proof.Machine
end

