-- ==== Sys2Proof/Machine/Timing.lean ====
section
/-!
DEFINITION. How long an access holds the host, in the open parameters of Config (spec/70_reset_and_hazards.md R243, R244). It
is a function beside the step and changes no state: the model has no clock (R245; log 7).
-/

namespace Sys2Proof.Machine

/-- Does command `i` end in an error from engine state `e` (R200, R207)? -/
def endsInError (i : Instr) (e : Engine) : Bool := (runTicks commandTicks (beginCommand i e)).err ≠ 0

/-- How long a command holds the host (R244). -/
def commandHold (i : Instr) (failed : Bool) : Nat :=
  if failed then Config.tErr
  else match i with
    | .loadkey => Config.tLoadkey
    | .encrypt => Config.tCrypt
    | .decrypt => Config.tCrypt
    | .illegal00 => Config.tErr
    | .illegal04 _ => Config.tErr
    | .illegal08 _ => Config.tErr
    | .illegal10 _ => Config.tErr
    | .illegal20 _ => Config.tErr
    | .illegal40 _ => Config.tErr
    | .illegal80 _ => Config.tErr

/-- Bus cycles of a plain access: "Plain reads and writes complete in one bus cycle" (R244). -/
def plainHold : Nat := 1

/-- Bus cycles a one-byte read takes, at every offset: each read is a plain read (R66, R244). -/
def readHold : Nat := plainHold

/-- Bus cycles a one-byte write of `v` at `off` takes: a write to CMD runs a command, every other write is plain (R244). -/
def writeHold (off v : Byte) (e : Engine) : Nat :=
  if off = 0x02 then commandHold (decode v) (endsInError (decode v) e) else plainHold

/-- Bus cycles until host access `a`, made in engine state `e`, completes (R244). None where no access completes: an access the
host port refuses (log 4, log 5), and reset, which is no bus access and abandons the write it interrupts (R231). -/
def accessHold (a : HostAccess) (e : Engine) : Option Nat :=
  match a with
  | .read (.window _) size => if size = 1 then some readHold else none
  | .write (.window off) size v => if size = 1 then some (writeHold off v e) else none
  | .read (.elsewhere _) _ => none
  | .write (.elsewhere _) _ _ => none
  | .reset => none
  | .resetDuringCommand _ _ => none

end Sys2Proof.Machine
end

