-- ==== Sys2Proof/Safety.lean ====
section
/-!
DEFINITION. The terms claims use: what is true of the engine at every host-visible point (spec/10_state.md R32 to R39;
spec/60_exceptions.md R201), what the host can see of it (spec/20_memory.md R52), and the host's access lists of
spec/30_encoding.md R88.
-/

namespace Sys2Proof.Safety

open Sys2Proof.Machine

/-- No command is running and no key or block remnant stays in the working registers (R32 to R35, R178). -/
def AtRest (e : Engine) : Prop := e.ksr = 0 ∧ e.st = 0 ∧ e.rnd = 0 ∧ e.phase = .idle

/-- RK and KEYVALID agree: a valid instance is the schedule of some key (R38), and without one RK is all zero (R39). -/
def KeyConsistent (e : Engine) : Prop :=
  (e.keyValid = true → ∃ K : KeyReg, e.rk = keySchedule K) ∧ (e.keyValid = false → e.rk = Vector.replicate 32 0)

/-- ERR is one of the codes of R201 and ERR_INFO goes with it (R30, R201). KEY_SIZE and BLOCK_SIZE carry a length that is
wrong, ILLEGAL_CMD a byte that is no command, BLOCK_SIZE stands only while an instance exists and NO_KEY only while none
does (R202 to R206). -/
def OutcomeConsistent (e : Engine) : Prop :=
  (e.err = 0 ∧ e.errInfo = 0) ∨
  (e.err = 1 ∧ e.errInfo ≠ 10) ∨
  (e.err = 2 ∧ e.errInfo ≠ 8 ∧ e.keyValid = true) ∨
  (e.err = 3 ∧ e.errInfo = 0 ∧ e.keyValid = false) ∨
  (e.err = 4 ∧ e.errInfo ≠ 1 ∧ e.errInfo ≠ 2 ∧ e.errInfo ≠ 3)

/-- Two engines the host cannot tell apart without a successful ENCRYPT or DECRYPT: all the window can show is equal; RK,
KEY_BUF, BLK_BUF, KSR and ST may differ (R52, D5). -/
def SameToHost (e f : Engine) : Prop :=
  e.keyValid = f.keyValid ∧ e.err = f.err ∧ e.errInfo = f.errInfo ∧ e.keyCnt = f.keyCnt ∧ e.blkCnt = f.blkCnt ∧
    e.blockOut = f.blockOut

/-- The access is an ENCRYPT or DECRYPT command that the engine accepts (R180). -/
def AcceptedCrypt (a : HostAccess) (e : Engine) : Prop :=
  (a = .write (.window 0x02) 1 0x02 ∨ a = .write (.window 0x02) 1 0x03) ∧ e.keyValid = true ∧ e.blkCnt = 8

/-- The access is a LOADKEY command that the engine accepts (R180). -/
def AcceptedLoadkey (a : HostAccess) (e : Engine) : Prop := a = .write (.window 0x02) 1 0x01 ∧ e.keyCnt = 10

/-- The access asserts reset, between accesses or while a command is held (R230, R231). -/
def IsReset : HostAccess → Prop
  | .reset => True
  | .resetDuringCommand _ _ => True
  | .read _ _ => False
  | .write _ _ _ => False

/-- The access writes the command port with one byte (R80). -/
def IsCommand (a : HostAccess) : Prop := ∃ c : Byte, a = .write (.window 0x02) 1 c

/-- The access is one the engine has: one byte, inside the window, or reset (R51, R63, R71). -/
def IsEngineAccess : HostAccess → Prop
  | .read (.window _) size => size = 1
  | .write (.window _) size _ => size = 1
  | .read (.elsewhere _) _ => False
  | .write (.elsewhere _) _ _ => False
  | .reset => True
  | .resetDuringCommand _ _ => True

/-- `wr OFF, VAL` (R87). -/
def wr (off v : Byte) : HostAccess := .write (.window off) 1 v

/-- `rd OFF` (R87). -/
def rd (off : Byte) : HostAccess := .read (.window off) 1

/-- The expansion of `loadkey K`: ten pushes in order, then LOADKEY (R88). -/
def loadkeyAccesses (key : Vector Byte 10) : List HostAccess := key.toList.map (wr 0x00) ++ [wr 0x02 0x01]

/-- The expansion of `encrypt B`: eight pushes in order, then ENCRYPT (R88). -/
def encryptAccesses (block : Vector Byte 8) : List HostAccess := block.toList.map (wr 0x01) ++ [wr 0x02 0x02]

/-- The expansion of `decrypt B`: eight pushes in order, then DECRYPT (R88). -/
def decryptAccesses (block : Vector Byte 8) : List HostAccess := block.toList.map (wr 0x01) ++ [wr 0x02 0x03]

/-- The expansion of `readout`: OUT0 to OUT7 in order (R88). -/
def readoutAccesses : List HostAccess := [rd 0x08, rd 0x09, rd 0x0A, rd 0x0B, rd 0x0C, rd 0x0D, rd 0x0E, rd 0x0F]

/-- `n` steps of the machine (a run stops at a refusal). -/
def runSteps (n : Nat) (s : State) : Host.Outcome State Fault Refusal := Host.Core.run Sys2Proof.core n s

/-- The accesses of a list leave the cipher instance alone: none is a LOADKEY command and none asserts reset (R38, R179). -/
def KeepsInstance (a : HostAccess) : Prop := a ≠ wr 0x02 0x01 ∧ ¬ IsReset a

end Sys2Proof.Safety
end

