-- ==== Sys2Proof/Certificates/Slice0/Obligations.lean ====
section
/-!
DEFINITION. The statements for the provers, each from a numbered rule of spec/ or derived from several. Bit and byte indices
are the spec's own (LSB-0 bits, byte 0 first).
-/

open Sys2Proof Sys2Proof.Machine Sys2Proof.Safety

/-! ## Encoding (30_encoding.md) -/

/-- R83: the opcode map. -/
def Obligations.CommandBytesDecode : Prop :=
  decode 0x01 = .loadkey ∧ decode 0x02 = .encrypt ∧ decode 0x03 = .decrypt

/-- R84's last sentence and R81: one row, and only one, for every byte; the decoder gives the well-formed command of that row,
and encoding it gives the byte back. -/
def Obligations.EveryByteHasExactlyOneRow : Prop :=
  ∀ c : Byte, (opcodeRows.filter (·.Matches c)).length = 1 ∧ (decode c).row ∈ opcodeRows ∧ (decode c).row.Matches c = true ∧
    (decode c).wellFormed = true ∧ encode (decode c) = c

/-- Decoding gives back every well-formed command, with the byte it carries. -/
def Obligations.DecodeOfEncodeIsTheCommand : Prop :=
  ∀ i : Instr, i.wellFormed = true → decode (encode i) = i

/-! ## The commands (43_commands.md) -/

/-- R174: LOADKEY consumes KEY_CNT; with ten bytes pushed it installs KeySchedule of them, and otherwise raises KEY_SIZE with
the length. The two next states name every field, so they are the frame as well; the working
registers are cleared by Complete (R178). -/
def Obligations.LoadkeyInstallsTheSchedule : Prop :=
  ∀ s : State,
    (s.engine.keyCnt = 10 →
      exec .loadkey s = .next { s with engine := { s.engine with
        rk := keySchedule (be80 s.engine.keyBuf), keyValid := true, keyCnt := 0, err := 0, errInfo := 0,
        ksr := 0, st := 0, rnd := 0, phase := .idle } }) ∧
    (s.engine.keyCnt ≠ 10 →
      exec .loadkey s = .next { s with engine := { s.engine with
        keyCnt := 0, err := 1, errInfo := s.engine.keyCnt, ksr := 0, st := 0, rnd := 0, phase := .idle } })

/-- R175: ENCRYPT consumes BLK_CNT, raises NO_KEY or BLOCK_SIZE, or puts Encrypt of the block into BLOCK_OUT;
Complete clears the working registers (R178). -/
def Obligations.EncryptCommandResult : Prop :=
  ∀ s : State,
    (s.engine.keyValid = true → s.engine.blkCnt = 8 →
      exec .encrypt s = .next { s with engine := { s.engine with
        blockOut := bytesBe8 (encryptBlock s.engine.rk (be64 s.engine.blkBuf)), blkCnt := 0, err := 0, errInfo := 0,
        ksr := 0, st := 0, rnd := 0, phase := .idle } }) ∧
    (s.engine.keyValid = true → s.engine.blkCnt ≠ 8 →
      exec .encrypt s = .next { s with engine := { s.engine with
        blkCnt := 0, err := 2, errInfo := s.engine.blkCnt, ksr := 0, st := 0, rnd := 0, phase := .idle } }) ∧
    (s.engine.keyValid = false →
      exec .encrypt s = .next { s with engine := { s.engine with
        blkCnt := 0, err := 3, errInfo := 0, ksr := 0, st := 0, rnd := 0, phase := .idle } })

/-- R176: DECRYPT, as ENCRYPT with Decrypt; Complete clears the working registers (R178). -/
def Obligations.DecryptCommandResult : Prop :=
  ∀ s : State,
    (s.engine.keyValid = true → s.engine.blkCnt = 8 →
      exec .decrypt s = .next { s with engine := { s.engine with
        blockOut := bytesBe8 (decryptBlock s.engine.rk (be64 s.engine.blkBuf)), blkCnt := 0, err := 0, errInfo := 0,
        ksr := 0, st := 0, rnd := 0, phase := .idle } }) ∧
    (s.engine.keyValid = true → s.engine.blkCnt ≠ 8 →
      exec .decrypt s = .next { s with engine := { s.engine with
        blkCnt := 0, err := 2, errInfo := s.engine.blkCnt, ksr := 0, st := 0, rnd := 0, phase := .idle } }) ∧
    (s.engine.keyValid = false →
      exec .decrypt s = .next { s with engine := { s.engine with
        blkCnt := 0, err := 3, errInfo := 0, ksr := 0, st := 0, rnd := 0, phase := .idle } })

/-- R177: what every illegal row's command does, and that every byte but 0x01, 0x02 and 0x03 does it. -/
def Obligations.IllegalCommandReportsTheByte : Prop :=
  ∀ (s : State) (c : Byte),
    let reported : Byte → Host.Outcome State Fault Refusal := fun b => .next { s with engine := { s.engine with
        err := 4, errInfo := b, ksr := 0, st := 0, rnd := 0, phase := .idle } }
    exec .illegal00 s = reported 0x00 ∧
    exec (.illegal04 c) s = reported c ∧
    exec (.illegal08 c) s = reported c ∧
    exec (.illegal10 c) s = reported c ∧
    exec (.illegal20 c) s = reported c ∧
    exec (.illegal40 c) s = reported c ∧
    exec (.illegal80 c) s = reported c ∧
    (c ≠ 0x01 → c ≠ 0x02 → c ≠ 0x03 → exec (decode c) s = reported c)

/-- R178: every command ends in a next state with the working registers cleared and PHASE IDLE; the host's side of the bus is
untouched. -/
def Obligations.EveryCommandCompletesAtRest : Prop :=
  ∀ (i : Instr) (s : State), ∃ t : State, exec i s = .next t ∧
    t.engine.ksr = 0 ∧ t.engine.st = 0 ∧ t.engine.rnd = 0 ∧ t.engine.phase = .idle ∧
    t.pending = s.pending ∧ t.observed = s.observed

/-- R180: the commands succeed on exactly the inputs R180 names; no other error exists. -/
def Obligations.CommandsSucceedExactlyOnValidInput : Prop :=
  ∀ s t : State,
    (exec .loadkey s = .next t → (t.engine.err = 0 ↔ s.engine.keyCnt = 10)) ∧
    (exec .encrypt s = .next t → (t.engine.err = 0 ↔ s.engine.keyValid = true ∧ s.engine.blkCnt = 8)) ∧
    (exec .decrypt s = .next t → (t.engine.err = 0 ↔ s.engine.keyValid = true ∧ s.engine.blkCnt = 8))

/-- R207: errors are precise. From a state between commands (`AtRest`), a command that ends in an error changes its own counter
and ERR and ERR_INFO, and nothing else. -/
def Obligations.ErrorsArePrecise : Prop :=
  ∀ s t : State, AtRest s.engine →
    (exec .loadkey s = .next t → t.engine.err ≠ 0 →
      t = { s with engine := { s.engine with keyCnt := 0, err := 1, errInfo := s.engine.keyCnt } }) ∧
    (∀ i, i = .encrypt ∨ i = .decrypt → exec i s = .next t → t.engine.err ≠ 0 →
      t = { s with engine := { s.engine with blkCnt := 0, err := t.engine.err, errInfo := t.engine.errInfo } } ∧
      (s.engine.keyValid = false → t.engine.err = 3 ∧ t.engine.errInfo = 0) ∧
      (s.engine.keyValid = true → t.engine.err = 2 ∧ t.engine.errInfo = s.engine.blkCnt)) ∧
    (∀ c : Byte, c ≠ 1 → c ≠ 2 → c ≠ 3 → exec (decode c) s = .next t →
      t = { s with engine := { s.engine with err := 4, errInfo := c } })

/-- R129: equal key bytes give equal round keys, and then equal results. -/
def Obligations.EqualKeyBytesGiveEqualResults : Prop :=
  ∀ s₁ s₂ t₁ t₂ : State, s₁.engine.keyCnt = 10 → s₂.engine.keyCnt = 10 → s₁.engine.keyBuf = s₂.engine.keyBuf →
    exec .loadkey s₁ = .next t₁ → exec .loadkey s₂ = .next t₂ →
    t₁.engine.rk = t₂.engine.rk ∧
    (t₁.engine.blkCnt = 8 → t₂.engine.blkCnt = 8 → t₁.engine.blkBuf = t₂.engine.blkBuf →
      ∀ i u₁ u₂, i = .encrypt ∨ i = .decrypt → exec i t₁ = .next u₁ → exec i t₂ = .next u₂ →
        u₁.engine.blockOut = u₂.engine.blockOut)

/-- R176, corner case: DECRYPT of the bytes ENCRYPT left in BLOCK_OUT, under the same round keys, gives the block back. -/
def Obligations.DecryptCommandUndoesEncryptCommand : Prop :=
  ∀ s t u v : State, s.engine.keyValid = true → s.engine.blkCnt = 8 → exec .encrypt s = .next t →
    u.engine.rk = s.engine.rk → u.engine.keyValid = true → u.engine.blkCnt = 8 → u.engine.blkBuf = t.engine.blockOut →
    exec .decrypt u = .next v → v.engine.blockOut = s.engine.blkBuf

/-! ## Frames, through the host's read of one byte (R52) -/

/-- R174, unchanged in every case; on a failure the earlier instance stays (D13). Offsets other than STATUS, ERR_INFO and
KEY_CNT read as before. -/
def Obligations.LoadkeyFrame : Prop :=
  ∀ s t : State, exec .loadkey s = .next t →
    t.engine.keyBuf = s.engine.keyBuf ∧ t.engine.blkBuf = s.engine.blkBuf ∧ t.engine.blkCnt = s.engine.blkCnt ∧
    t.engine.blockOut = s.engine.blockOut ∧ t.pending = s.pending ∧ t.observed = s.observed ∧
    (s.engine.keyCnt ≠ 10 → t.engine.rk = s.engine.rk ∧ t.engine.keyValid = s.engine.keyValid) ∧
    ∀ off : Byte, off ≠ 0x03 → off ≠ 0x04 → off ≠ 0x05 → memRead off t.engine = memRead off s.engine

/-- R175 and R176, unchanged in every case; on an error BLOCK_OUT stays too (D17). Offsets other than STATUS, ERR_INFO, BLK_CNT
and BLOCK_OUT read as before, and KEYVALID, STATUS[7], stays. -/
def Obligations.EncryptDecryptFrame : Prop :=
  ∀ (i : Instr) (s t : State), i = .encrypt ∨ i = .decrypt → exec i s = .next t →
    t.engine.rk = s.engine.rk ∧ t.engine.keyValid = s.engine.keyValid ∧ t.engine.keyBuf = s.engine.keyBuf ∧
    t.engine.keyCnt = s.engine.keyCnt ∧ t.engine.blkBuf = s.engine.blkBuf ∧
    t.pending = s.pending ∧ t.observed = s.observed ∧
    (t.engine.err ≠ 0 → t.engine.blockOut = s.engine.blockOut) ∧
    ∀ off : Byte, off ≠ 0x03 → off ≠ 0x04 → off ≠ 0x06 → ¬ (0x08 ≤ off.toNat ∧ off.toNat ≤ 0x0F) →
      memRead off t.engine = memRead off s.engine

/-- R177, unchanged: everything but ERR and ERR_INFO; pushed bytes survive. Offsets other than STATUS and ERR_INFO read as
before. -/
def Obligations.IllegalCommandFrame : Prop :=
  ∀ (i : Instr) (s t : State), i ≠ .loadkey → i ≠ .encrypt → i ≠ .decrypt → exec i s = .next t →
    t.engine.rk = s.engine.rk ∧ t.engine.keyValid = s.engine.keyValid ∧ t.engine.keyBuf = s.engine.keyBuf ∧
    t.engine.keyCnt = s.engine.keyCnt ∧ t.engine.blkBuf = s.engine.blkBuf ∧ t.engine.blkCnt = s.engine.blkCnt ∧
    t.engine.blockOut = s.engine.blockOut ∧ t.pending = s.pending ∧ t.observed = s.observed ∧
    ∀ off : Byte, off ≠ 0x03 → off ≠ 0x04 → memRead off t.engine = memRead off s.engine

/-! ## The internal sequences (R181 to R183), in the model's grain of internal steps (log 9) -/

/-- R181: after k passes of the loop KSR is the key register after k updates, RK[0..k] are its round keys, the entries above
are not yet written, and KEYVALID is 0; the next step after the 31st sets KEYVALID and completes. That RND is 0 before the first
pass (k = 0) is the model's choice (log 9). -/
def Obligations.LoadkeySequenceStepByStep : Prop :=
  ∀ (e : Engine) (k : Nat), k ≤ 31 →
    let t := runTicks k (startKeySchedule e)
    t.phase = .keysched ∧ t.keyValid = false ∧ t.rnd.toNat = k ∧ t.ksr = keyRegister (be80 e.keyBuf) k ∧
    (∀ j : RoundIndex, j.toNat ≤ k → roundKey t.rk j = roundKeyOf (keyRegister (be80 e.keyBuf) j.toNat)) ∧
    (∀ j : RoundIndex, k < j.toNat → roundKey t.rk j = roundKey e.rk j) ∧
    (k = 31 → (tick t).keyValid = true ∧ (tick t).phase = .idle ∧ (tick t).rk = t.rk)

/-- R182: after k round steps ST is the block after k rounds and nothing but ST, RND and PHASE has changed; the step after the
31st whitens with RK[31] into BLOCK_OUT. That RND has gone on to 31 for that step (k = 31) is the model's choice (log 9). -/
def Obligations.EncryptSequenceStepByStep : Prop :=
  ∀ (e : Engine) (k : Nat), k ≤ 31 →
    let t := runTicks k (startEncrypt e)
    t = { e with phase := .enc, rnd := BitVec.ofNat 5 k, st := encryptRounds e.rk (be64 e.blkBuf) k } ∧
    (k = 31 → (tick t).blockOut = bytesBe8 (t.st ^^^ roundKey e.rk 31) ∧ (tick t).phase = .idle)

/-- R183: the mirror of R182, RND counting from 31 down. That RND has gone on to 0 for the final whitening (k = 31) is the
model's choice (log 9). -/
def Obligations.DecryptSequenceStepByStep : Prop :=
  ∀ (e : Engine) (k : Nat), k ≤ 31 →
    let t := runTicks k (startDecrypt e)
    t = { e with phase := .dec, rnd := BitVec.ofNat 5 (31 - k), st := decryptRounds e.rk (be64 e.blkBuf) k } ∧
    (k = 31 → (tick t).blockOut = bytesBe8 (t.st ^^^ roundKey e.rk 0) ∧ (tick t).phase = .idle)

/-! ## The cipher core (40_sbox.md, 41_key_schedule.md, 42_round_transform.md, R171 to R173) -/

/-- R102: the tables are inverse, both ways. -/
def Obligations.SBoxTablesAreInverse : Prop :=
  ∀ x : Nibble, sboxInv (sbox x) = x ∧ sbox (sboxInv x) = x

/-- R141 and R142: every lane goes through S, in the inverse layer through SI, on its own. -/
def Obligations.SubstitutionActsOnEachLane : Prop :=
  ∀ (s : Block) (n : Nat), n < 16 →
    (sLayer s).extractLsb' (4 * n) 4 = sbox (s.extractLsb' (4 * n) 4) ∧
    (sLayerInv s).extractLsb' (4 * n) 4 = sboxInv (s.extractLsb' (4 * n) 4)

/-- R145: P has the closed form, and PI inverts it (R147). R144: P is the same map from either end of the bits. -/
def Obligations.PermutationMapClosedForm : Prop :=
  ∀ j : Nat, j < 64 →
    permIndex j = 16 * (j % 4) + j / 4 ∧ permIndex (4 * (j % 16) + j / 16) = j ∧ 63 - permIndex (63 - j) = permIndex j

/-- R143 as the source says it, in its own logical positions (R9: bit 0 the most significant): the bit at position p goes to
position 16p mod 63, and bit 63 stays. -/
def Obligations.PermutationInSourcePositions : Prop :=
  ∀ s : Block, (∀ p : Nat, p < 63 → (pLayer s).getMsbD (16 * p % 63) = s.getMsbD p) ∧
    (pLayer s).getMsbD 63 = s.getMsbD 63

/-- R146: the bit at position j moves to P(j). R147: the inverse layer's out[j] is s[P(j)]; equivalently its out[PI(q)] is s[q],
PI the closed form. -/
def Obligations.PermutationMovesEveryBit : Prop :=
  ∀ (s : Block) (j : Nat), j < 64 →
    (pLayer s).getLsbD (permIndex j) = s.getLsbD j ∧
    (pLayerInv s).getLsbD j = s.getLsbD (permIndex j) ∧
    (pLayerInv s).getLsbD (4 * (j % 16) + j / 16) = s.getLsbD j

/-- R149: the four layer inverse laws. -/
def Obligations.LayersAreInverse : Prop :=
  ∀ s : Block, sLayerInv (sLayer s) = s ∧ sLayer (sLayerInv s) = s ∧ pLayerInv (pLayer s) = s ∧ pLayer (pLayerInv s) = s

/-- R148: the inverse layers undo a round up to its key mix. -/
def Obligations.InverseLayersUndoARound : Prop :=
  ∀ s k : Block, sLayerInv (pLayerInv (cipherRound s k)) = addRoundKey s k

/-- R173: the inverse law, both ways, for any round keys. -/
def Obligations.EncryptAndDecryptAreInverse : Prop :=
  ∀ (rk : RoundKeys) (b : Block), decryptBlock rk (encryptBlock rk b) = b ∧ encryptBlock rk (decryptBlock rk b) = b

/-- R123: rotation left by 61, equivalently right by 19; new bit j is old bit (j + 19) mod 80. -/
def Obligations.KeyRotationBits : Prop :=
  ∀ r : KeyReg, rotateKey r = r.rotateLeft 61 ∧ rotateKey r = r.rotateRight 19 ∧
    ∀ j : Nat, j < 80 → (rotateKey r).getLsbD j = r.getLsbD ((j + 19) % 80)

/-- R124: S on bits 79..76; bits 75..0 do not change. -/
def Obligations.KeySubstitutionTopNibbleOnly : Prop :=
  ∀ r : KeyReg, (substituteTop r).extractLsb' 76 4 = sbox (r.extractLsb' 76 4) ∧
    (substituteTop r).extractLsb' 0 76 = r.extractLsb' 0 76

/-- R125: the counter's five bits are XORed into bits 19..15, its top bit into bit 19; no other bit changes. -/
def Obligations.CounterGoesIntoBits15To19 : Prop :=
  ∀ (r : KeyReg) (i : RoundIndex),
    (injectCounter r i).extractLsb' 15 5 = r.extractLsb' 15 5 ^^^ i ∧
    ∀ j : Nat, j < 15 ∨ 20 ≤ j → (injectCounter r i).getLsbD j = r.getLsbD j

/-- R122, R126, R127: RK[0] is K[79:16]; RK[i] is bits 79..16 of the register after i updates. -/
def Obligations.KeyScheduleEntries : Prop :=
  ∀ K : KeyReg, roundKey (keySchedule K) 0 = K.extractLsb' 16 64 ∧
    ∀ (i : RoundIndex), i.toNat < 31 →
      roundKey (keySchedule K) (i + 1) = (keyUpdate (keyRegister K i.toNat) (i + 1)).extractLsb' 16 64 ∧
      keyRegister K (i.toNat + 1) = keyUpdate (keyRegister K i.toNat) (i + 1)

/-! ## Byte order (R10, R60, R61) -/

/-- R10: be(B) is the sum over k of B[k] * 2^(8*(n-1-k)). -/
def Obligations.BigEndianIsTheWeightedSum : Prop :=
  ∀ bs : List Byte, beNat bs = ((List.range bs.length).map fun k => (bs.getD k 0).toNat * 2 ^ (8 * (bs.length - 1 - k))).sum

/-- R60: KEY_BUF[0] is K[79:72] and KEY_BUF[9] is K[7:0]. -/
def Obligations.KeyBytesMostSignificantFirst : Prop :=
  ∀ (b : Vector Byte 10) (k : Fin 10), (be80 b).extractLsb' (8 * (9 - k.val)) 8 = b[k]

/-- R61: the block is read and the result written most significant byte first, and the two conversions are inverse (R10). -/
def Obligations.BlockBytesMostSignificantFirst : Prop :=
  (∀ (b : Vector Byte 8) (k : Fin 8), (be64 b).extractLsb' (8 * (7 - k.val)) 8 = b[k]) ∧
  (∀ (v : Block) (k : Fin 8), (bytesBe8 v)[k] = v.extractLsb' (8 * (7 - k.val)) 8) ∧
  (∀ v : Block, be64 (bytesBe8 v) = v) ∧
  (∀ b : Vector Byte 8, bytesBe8 (be64 b) = b)

/-! ## The host port (20_memory.md) -/

/-- R52: the read map, at every offset. -/
def Obligations.ReadMapOfTheWindow : Prop :=
  ∀ (e : Engine) (off : Byte),
    memRead 0x03 e = BitVec.ofBool e.keyValid ++ 0b0000#4 ++ e.err ∧
    memRead 0x04 e = e.errInfo ∧ memRead 0x05 e = e.keyCnt ∧ memRead 0x06 e = e.blkCnt ∧
    (∀ k : Fin 8, memRead (BitVec.ofNat 8 (0x08 + k.val)) e = e.blockOut[k]) ∧
    (off = 0x00 ∨ off = 0x01 ∨ off = 0x02 ∨ off = 0x07 ∨ 0x10 ≤ off.toNat → memRead off e = 0x00)

/-- R54: PushKey. -/
def Obligations.PushKeyStoresAndCounts : Prop :=
  ∀ (s : State) (v : Byte),
    (∀ h : s.engine.keyCnt.toNat < 10, memWrite 0x00 v s = .next { s with engine := { s.engine with
      keyBuf := s.engine.keyBuf.set s.engine.keyCnt.toNat v h, keyCnt := s.engine.keyCnt + 1 } }) ∧
    (10 ≤ s.engine.keyCnt.toNat → memWrite 0x00 v s = .next { s with engine := { s.engine with
      keyCnt := BitVec.ofNat 8 (min (s.engine.keyCnt.toNat + 1) 255) } })

/-- R55: PushBlock. -/
def Obligations.PushBlockStoresAndCounts : Prop :=
  ∀ (s : State) (v : Byte),
    (∀ h : s.engine.blkCnt.toNat < 8, memWrite 0x01 v s = .next { s with engine := { s.engine with
      blkBuf := s.engine.blkBuf.set s.engine.blkCnt.toNat v h, blkCnt := s.engine.blkCnt + 1 } }) ∧
    (8 ≤ s.engine.blkCnt.toNat → memWrite 0x01 v s = .next { s with engine := { s.engine with
      blkCnt := BitVec.ofNat 8 (min (s.engine.blkCnt.toNat + 1) 255) } })

/-- R53 and R57: writes to read-only and reserved offsets change nothing; reserved offsets read 0x00. -/
def Obligations.OtherWritesAreIgnored : Prop :=
  ∀ (s : State) (off v : Byte), 0x03 ≤ off.toNat →
    memWrite off v s = .next s ∧ (off = 0x07 ∨ 0x10 ≤ off.toNat → memRead off s.engine = 0x00)

/-- R40 for KEY_BUF: from an empty count, pushing a list of bytes leaves KEY_CNT at its length, saturated, and KEY_BUF holding
its first bytes in push order; the other entries, and all other state, are as they were. -/
def Obligations.KeyBufferHoldsThePushedBytes : Prop :=
  ∀ (e : Engine) (bs : List Byte), e.keyCnt = 0 →
    let f := bs.foldl (fun e v => pushKey v e) e
    f.keyCnt.toNat = min bs.length 255 ∧
    (∀ i : Fin 10, f.keyBuf[i] = if h : i.val < bs.length then bs[i.val] else e.keyBuf[i]) ∧
    f = { e with keyBuf := f.keyBuf, keyCnt := f.keyCnt }

/-- R40 for BLK_BUF. -/
def Obligations.BlockBufferHoldsThePushedBytes : Prop :=
  ∀ (e : Engine) (bs : List Byte), e.blkCnt = 0 →
    let f := bs.foldl (fun e v => pushBlock v e) e
    f.blkCnt.toNat = min bs.length 255 ∧
    (∀ i : Fin 8, f.blkBuf[i] = if h : i.val < bs.length then bs[i.val] else e.blkBuf[i]) ∧
    f = { e with blkBuf := f.blkBuf, blkCnt := f.blkCnt }

/-- A step performs the host's next access and no other (R67), whatever it is: with none pending nothing happens (R232); any
access is served, on the state with it taken off the list. Then, form by form: a window access of one byte is MemRead or MemWrite,
reset leaves the reset engine (R230) also while a command is held (R231), and an access of another size (R63) or outside the window
(R51) is refused. That the accesses stand in `pending` and the bytes read in `observed`, and the two refusals' form, are the
model's choice (log 1 to log 5, log 8). -/
def Obligations.StepPerformsTheNextAccess : Prop :=
  ∀ (s : State) (rest : List HostAccess) (off v : Byte) (size addr k : Nat),
    (s.pending = [] → step s = .next s) ∧
    (∀ a, s.pending = a :: rest → step s = serve a { s with pending := rest }) ∧
    (s.pending = wr off v :: rest → step s = memWrite off v { s with pending := rest }) ∧
    (s.pending = rd off :: rest →
      step s = .next { s with pending := rest, observed := s.observed ++ [memRead off s.engine] }) ∧
    (s.pending = .reset :: rest → step s = .next { s with pending := rest, engine := Engine.reset }) ∧
    (s.pending = .resetDuringCommand v k :: rest → step s = .next { s with pending := rest, engine := Engine.reset }) ∧
    (size ≠ 1 → s.pending = .read (.window off) size :: rest ∨ s.pending = .write (.window off) size v :: rest →
      step s = .refused (.unsupportedWidth size)) ∧
    (s.pending = .read (.elsewhere addr) size :: rest ∨ s.pending = .write (.elsewhere addr) size v :: rest →
      step s = .refused (.outsideWindow addr))

/-- R170, R80: a step whose next access writes byte c to CMD is exec of the command that c decodes to, on the state with that
access taken off the list (log 1). -/
def Obligations.StepRunsTheDecodedCommand : Prop :=
  ∀ (s : State) (c : Byte) (rest : List HostAccess), s.pending = wr 0x02 c :: rest →
    step s = exec (decode c) { s with pending := rest }

/-- The command byte that withFetchWord places is the one the next step runs, and nothing else is changed (log 12). -/
def Obligations.FetchWordIsRunNext : Prop :=
  ∀ (s : State) (c : Byte), step (s.withFetchWord 8 c.toNat) = exec (decode c) s

/-- R63: an access of any other size is refused, a read and a write alike; it changes nothing. -/
def Obligations.OtherSizesAreRefused : Prop :=
  ∀ (s : State) (off v : Byte) (size : Nat), size ≠ 1 →
    serve (.read (.window off) size) s = .refused (.unsupportedWidth size) ∧
    serve (.write (.window off) size v) s = .refused (.unsupportedWidth size)

/-- R51: ENGINE_BASE + off reaches offset off; no other address does, and the model refuses an access to one (log 4). -/
def Obligations.WindowStandsAtEngineBase : Prop :=
  (∀ off : Byte, targetOf (Config.engineBase + off.toNat) = .window off) ∧
  (∀ (addr : Nat) (off : Byte), targetOf addr = .window off → addr = Config.engineBase + off.toNat) ∧
  (∀ (addr size : Nat) (v : Byte) (s : State), addr < Config.engineBase ∨ Config.engineBase + 256 ≤ addr →
    serve (.read (targetOf addr) size) s = .refused (.outsideWindow addr) ∧
    serve (.write (targetOf addr) size v) s = .refused (.outsideWindow addr))

/-- R71 and R216: every access the engine has ends in a next state: no command, read or write is refused. -/
def Obligations.EngineAccessesNeverStop : Prop :=
  ∀ s : State, (∀ a rest, s.pending = a :: rest → IsEngineAccess a) → ∃ t, step s = .next t

/-! ## Reset (70_reset_and_hazards.md) -/

/-- R230: reset gives every piece of state its reset value, and after it MemRead returns 0x00 at every offset. -/
def Obligations.ResetClearsEverything : Prop :=
  ∀ (s : State) (off : Byte),
    serve .reset s = .next { s with engine := Engine.reset } ∧ memRead off Engine.reset = 0x00 ∧
    (∀ i : RoundIndex, roundKey Engine.reset.rk i = 0) ∧ Engine.reset.keyValid = false ∧
    (∀ i : Fin 10, Engine.reset.keyBuf[i] = 0) ∧ Engine.reset.keyCnt = 0 ∧
    (∀ i : Fin 8, Engine.reset.blkBuf[i] = 0) ∧ Engine.reset.blkCnt = 0 ∧
    (∀ i : Fin 8, Engine.reset.blockOut[i] = 0) ∧ Engine.reset.err = 0 ∧ Engine.reset.errInfo = 0 ∧
    Engine.reset.ksr = 0 ∧ Engine.reset.st = 0 ∧ Engine.reset.rnd = 0 ∧ Engine.reset.phase = .idle ∧
    State.reset.engine = Engine.reset

/-- R231: reset while a command runs gives the reset state, whatever part of the command had run; the held write is not
retried. The event's form is the model's choice (log 8). -/
def Obligations.ResetAbandonsARunningCommand : Prop :=
  ∀ (s : State) (c : Byte) (k : Nat) (rest : List HostAccess), s.pending = .resetDuringCommand c k :: rest →
    step s = .next { s with engine := Engine.reset, pending := rest }

/-! ## Invariants of every step, and who writes what -/

/-- R38 and R39 hold after every step that starts with them. -/
def Obligations.StepKeepsKeyConsistent : Prop :=
  ∀ s t : State, KeyConsistent s.engine → step s = .next t → KeyConsistent t.engine

/-- R29, R30, R201: ERR is a code of the table and ERR_INFO goes with it, after every step that starts so. -/
def Obligations.StepKeepsOutcomeConsistent : Prop :=
  ∀ s t : State, OutcomeConsistent s.engine → step s = .next t → OutcomeConsistent t.engine

/-- R32 to R35: at every host-visible point no command is running and the working registers are clear. -/
def Obligations.StepKeepsAtRest : Prop :=
  ∀ s t : State, AtRest s.engine → step s = .next t → AtRest t.engine

/-- The three invariants hold right after reset. -/
def Obligations.ResetSatisfiesTheInvariants : Prop :=
  KeyConsistent State.reset.engine ∧ OutcomeConsistent State.reset.engine ∧ AtRest State.reset.engine

/-- R22: RK is written only by a LOADKEY that succeeds and by reset. R23: so is KEYVALID, and only reset clears it. -/
def Obligations.OnlyLoadkeyAndResetWriteTheInstance : Prop :=
  ∀ s t : State, step s = .next t →
    (t.engine.rk ≠ s.engine.rk ∨ t.engine.keyValid ≠ s.engine.keyValid →
      ∃ a rest, s.pending = a :: rest ∧ (AcceptedLoadkey a s.engine ∨ IsReset a)) ∧
    (s.engine.keyValid = true → t.engine.keyValid = false → ∃ a rest, s.pending = a :: rest ∧ IsReset a)

/-- R216: only commands and reset write ERR and ERR_INFO. -/
def Obligations.OnlyCommandsAndResetWriteErr : Prop :=
  ∀ s t : State, step s = .next t → t.engine.err ≠ s.engine.err ∨ t.engine.errInfo ≠ s.engine.errInfo →
    ∃ a rest, s.pending = a :: rest ∧ (IsCommand a ∨ IsReset a)

/-- R28: BLOCK_OUT is written only by an ENCRYPT or DECRYPT that succeeds, and by reset. -/
def Obligations.OnlySuccessfulCryptAndResetWriteBlockOut : Prop :=
  ∀ s t : State, step s = .next t → t.engine.blockOut ≠ s.engine.blockOut →
    ∃ a rest, s.pending = a :: rest ∧ (AcceptedCrypt a s.engine ∨ IsReset a)

/-- R52's last sentence, over whole steps: two engines that differ only in RK, KEY_BUF, BLK_BUF, KSR and ST answer the same
access alike and stay alike to the host, unless the access is an ENCRYPT or DECRYPT that is accepted. -/
def Obligations.KeyMaterialIsNeverObserved : Prop :=
  ∀ s s' : State, SameToHost s.engine s'.engine → s.pending = s'.pending → s.observed = s'.observed →
    (∀ a rest, s.pending = a :: rest → ¬ AcceptedCrypt a s.engine) →
    (∀ t, step s = .next t → ∃ t', step s' = .next t' ∧ SameToHost t.engine t'.engine ∧
      t.pending = t'.pending ∧ t.observed = t'.observed) ∧
    (∀ r, step s = .refused r → step s' = .refused r)

/-- R243: how long a command holds the host depends only on its byte and on whether it ends in an error; whether it does, and
the sequencer's phase and round at every internal step, do not depend on key bytes, block bytes or round keys. R244: every
hold is at least one cycle. -/
def Obligations.TimingIsDataIndependent : Prop :=
  ∀ (e f : Engine) (c : Byte),
    (endsInError (decode c) e = endsInError (decode c) f → writeHold 0x02 c e = writeHold 0x02 c f) ∧
    (e.keyValid = f.keyValid → e.keyCnt = f.keyCnt → e.blkCnt = f.blkCnt →
      endsInError (decode c) e = endsInError (decode c) f ∧
      ∀ k, (partialCommand c k e).phase = (partialCommand c k f).phase ∧
        (partialCommand c k e).rnd = (partialCommand c k f).rnd) ∧
    1 ≤ writeHold 0x02 c e

/-- R244: a plain read or write takes one bus cycle; a command takes T_LOADKEY, T_CRYPT or T_ERR, by its byte and by whether it
leaves an error in ERR; each count is at least 1. -/
def Obligations.HoldOfEveryAccess : Prop :=
  ∀ (s t : State) (off v c : Byte),
    accessHold (rd off) s.engine = some 1 ∧
    (off ≠ 0x02 → accessHold (wr off v) s.engine = some 1) ∧
    (exec (decode c) s = .next t →
      (t.engine.err ≠ 0 → accessHold (wr 0x02 c) s.engine = some Config.tErr) ∧
      (t.engine.err = 0 → c = 0x01 → accessHold (wr 0x02 c) s.engine = some Config.tLoadkey) ∧
      (t.engine.err = 0 → c = 0x02 ∨ c = 0x03 → accessHold (wr 0x02 c) s.engine = some Config.tCrypt)) ∧
    1 ≤ Config.tLoadkey ∧ 1 ≤ Config.tCrypt ∧ 1 ≤ Config.tErr

/-! ## Sequences of host accesses (R179, R233, R234), in the list `pending` (log 1) -/

/-- R179, R38: however many accesses are performed, RK and KEYVALID stay while none is a LOADKEY command and none asserts
reset. -/
def Obligations.InstanceSurvivesEveryOtherAccess : Prop :=
  ∀ (n : Nat) (s t : State), (∀ a ∈ s.pending, KeepsInstance a) → runSteps n s = .next t →
    t.engine.rk = s.engine.rk ∧ t.engine.keyValid = s.engine.keyValid

/-- R233: ten key bytes, most significant first, then LOADKEY, from any state with KEY_CNT 0: KEYVALID is 1, ERR is 0 and RK
is the schedule of those bytes. -/
def Obligations.BootSequenceInstallsTheKey : Prop :=
  ∀ (s : State) (key : Vector Byte 10) (rest : List HostAccess), s.engine.keyCnt = 0 →
    s.pending = loadkeyAccesses key ++ rest →
    runSteps 11 s = .next { s with pending := rest, engine := { s.engine with
      keyBuf := key, keyCnt := 0, rk := keySchedule (be80 key), keyValid := true, err := 0, errInfo := 0,
      ksr := 0, st := 0, rnd := 0, phase := .idle } }

/-- R234, R240: eight block bytes, then ENCRYPT or DECRYPT, then the read of BLOCK_OUT, from any state with a valid instance and
BLK_CNT 0: the eight bytes read are Encrypt, or Decrypt, of the block; the key is not touched and the block buffer is empty
again. -/
def Obligations.PerBlockSequenceReadsTheResult : Prop :=
  ∀ (s : State) (block : Vector Byte 8) (rest : List HostAccess), s.engine.keyValid = true → s.engine.blkCnt = 0 →
    let done : Block → State → Prop := fun result t =>
      t.pending = rest ∧ t.engine.err = 0 ∧ t.engine.rk = s.engine.rk ∧ t.engine.keyValid = true ∧ t.engine.blkCnt = 0 ∧
      t.engine.keyBuf = s.engine.keyBuf ∧ t.engine.keyCnt = s.engine.keyCnt ∧
      t.observed = s.observed ++ (bytesBe8 result).toList
    (s.pending = encryptAccesses block ++ readoutAccesses ++ rest →
      ∃ t, runSteps 17 s = .next t ∧ done (encryptBlock s.engine.rk (be64 block)) t) ∧
    (s.pending = decryptAccesses block ++ readoutAccesses ++ rest →
      ∃ t, runSteps 17 s = .next t ∧ done (decryptBlock s.engine.rk (be64 block)) t)
end

