-- ==== Sys2Proof/Laws/Bits.lean ====
section
/-!
SUPPORT. Spec lemmas of the bit-level operations: what one bit of a substituted or permuted state is, what one entry of the
round-key file is after a write, and the byte order's fold.
-/

namespace Sys2Proof.Machine

theorem movedBit_getLsbD (s : Block) (src dst i : Nat) (h : dst < 64) :
    (movedBit s src dst).getLsbD i = (decide (i = dst) && s.getLsbD src) := by
  unfold movedBit
  by_cases hi : i = dst
  · subst hi; simp [h]
  · simp only [BitVec.getLsbD_shiftLeft, BitVec.getLsbD_and, BitVec.getLsbD_ushiftRight, BitVec.ofNat_eq_ofNat,
      BitVec.getLsbD_one]
    rcases Nat.lt_trichotomy i dst with h1 | h1 | h1
    · simp [h1, hi]
    · exact absurd h1 hi
    · have : i - dst ≠ 0 := by omega
      simp [this, hi]

theorem permIndex_lt {j : Nat} (h : j < 64) : permIndex j < 64 := by revert j; decide

/-- A bit of the forward permutation's loop is set exactly when some bit was moved to it. -/
theorem permuteBits_getLsbD (s : Block) (n i : Nat) (hn : n ≤ 64) :
    (permuteBits s n).getLsbD i = true ↔ ∃ j, j < n ∧ permIndex j = i ∧ s.getLsbD j = true := by
  induction n with
  | zero => simp [permuteBits]
  | succ n ih =>
    rw [permuteBits, BitVec.getLsbD_or, movedBit_getLsbD _ _ _ _ (permIndex_lt (by omega)), Bool.or_eq_true, ih (by omega)]
    simp only [Bool.and_eq_true, decide_eq_true_eq]
    constructor
    · rintro (⟨j, h1, h2, h3⟩ | ⟨h1, h2⟩)
      · exact ⟨j, by omega, h2, h3⟩
      · exact ⟨n, by omega, h1.symm, h2⟩
    · rintro ⟨j, h1, h2, h3⟩
      rcases Nat.lt_succ_iff_lt_or_eq.mp h1 with h | h
      · exact Or.inl ⟨j, h, h2, h3⟩
      · subst h; exact Or.inr ⟨h2.symm, h3⟩

/-- A bit of the inverse permutation's loop. -/
theorem permuteInvBits_getLsbD (s : Block) (n i : Nat) (hn : n ≤ 64) :
    (permuteInvBits s n).getLsbD i = (decide (i < n) && s.getLsbD (permIndex i)) := by
  induction n with
  | zero => simp [permuteInvBits]
  | succ n ih =>
    rw [permuteInvBits, BitVec.getLsbD_or, movedBit_getLsbD _ _ _ _ (by omega), ih (by omega)]
    rcases Nat.lt_trichotomy i n with h | h | h
    · simp [h, Nat.lt_succ_of_lt h, Nat.ne_of_lt h]
    · subst h; simp
    · have h1 : ¬ i < n := by omega
      have h2 : ¬ i < n + 1 := by omega
      have h3 : i ≠ n := by omega
      simp [h1, h2, h3]

/-- A bit of the substitution's loop: bit i mod 4 of the image of lane i / 4. -/
theorem substituteLanes_getLsbD (box : Nibble → Nibble) (s : Block) (n i : Nat) (hn : n ≤ 16) :
    (substituteLanes box s n).getLsbD i =
      (decide (i < 4 * n) && (box (s.extractLsb' (4 * (i / 4)) 4)).getLsbD (i % 4)) := by
  induction n with
  | zero => simp [substituteLanes]
  | succ n ih =>
    rw [substituteLanes, BitVec.getLsbD_or, ih (by omega), BitVec.getLsbD_shiftLeft, BitVec.getLsbD_setWidth]
    by_cases h1 : i < 4 * n
    · have : i < 4 * (n + 1) := by omega
      simp [h1, this]
    · by_cases h2 : i < 4 * (n + 1)
      · have h3 : i / 4 = n := by omega
        have h4 : i % 4 = i - 4 * n := by omega
        have h5 : i < 64 := by omega
        have h6 : i - 4 * n < 64 := by omega
        simp [h1, h2, h3, h4, h5, h6]
      · have h7 : 4 ≤ i - 4 * n := by omega
        simp [h1, h2, BitVec.getLsbD_of_ge _ _ h7]

/-- Read after write on the round-key file. -/
theorem roundKey_setRoundKey (rk : RoundKeys) (i j : RoundIndex) (k : Block) :
    roundKey (setRoundKey rk i k) j = if i = j then k else roundKey rk j := by
  unfold roundKey setRoundKey
  rw [Vector.getElem_set]
  by_cases h : i = j
  · subst h; simp
  · have : i.toNat ≠ j.toNat := fun h2 => h (BitVec.eq_of_toNat_eq h2)
    simp [h, this]

theorem roundKeys_ext {a b : RoundKeys} (h : ∀ i, roundKey a i = roundKey b i) : a = b := by
  apply Vector.ext
  intro i hi
  have := h (BitVec.ofNat 5 i)
  simp only [roundKey, BitVec.toNat_ofNat] at this
  simpa [Nat.mod_eq_of_lt hi] using this

theorem roundKey_keySchedule (K : KeyReg) (i : RoundIndex) :
    roundKey (keySchedule K) i = roundKeyOf (keyRegister K i.toNat) := by
  simp [roundKey, keySchedule]

/-- The byte-order fold from any start value. -/
theorem beNat_foldl (bs : List Byte) (a : Nat) :
    bs.foldl (fun acc b => acc * 256 + b.toNat) a = a * 256 ^ bs.length + beNat bs := by
  induction bs generalizing a with
  | nil => simp [beNat]
  | cons b bs ih =>
    simp only [List.foldl_cons, beNat, List.length_cons]
    rw [ih, ih (0 * 256 + b.toNat)]; ring

end Sys2Proof.Machine
end

