-- ==== Sys2Proof/Laws/State.lean ====
section
/-!
SUPPORT. One lemma per field per named update of the state and of the engine, each true by rfl, so that no proof unfolds a
record update.
-/

namespace Sys2Proof.Machine

variable (s : State) (e : Engine)

@[simp] theorem State.withEngine_engine : (s.withEngine e).engine = e := rfl
@[simp] theorem State.withEngine_pending : (s.withEngine e).pending = s.pending := rfl
@[simp] theorem State.withEngine_observed : (s.withEngine e).observed = s.observed := rfl
@[simp] theorem State.observe_engine (b : Byte) : (s.observe b).engine = s.engine := rfl
@[simp] theorem State.observe_pending (b : Byte) : (s.observe b).pending = s.pending := rfl
@[simp] theorem State.observe_observed (b : Byte) : (s.observe b).observed = s.observed ++ [b] := rfl

@[simp] theorem pushKey_rk (v : Byte) : (pushKey v e).rk = e.rk := rfl
@[simp] theorem pushKey_keyValid (v : Byte) : (pushKey v e).keyValid = e.keyValid := rfl
@[simp] theorem pushKey_keyCnt (v : Byte) : (pushKey v e).keyCnt = saturatingInc e.keyCnt := rfl
@[simp] theorem pushKey_blkBuf (v : Byte) : (pushKey v e).blkBuf = e.blkBuf := rfl
@[simp] theorem pushKey_blkCnt (v : Byte) : (pushKey v e).blkCnt = e.blkCnt := rfl
@[simp] theorem pushKey_blockOut (v : Byte) : (pushKey v e).blockOut = e.blockOut := rfl
@[simp] theorem pushKey_err (v : Byte) : (pushKey v e).err = e.err := rfl
@[simp] theorem pushKey_errInfo (v : Byte) : (pushKey v e).errInfo = e.errInfo := rfl
@[simp] theorem pushKey_ksr (v : Byte) : (pushKey v e).ksr = e.ksr := rfl
@[simp] theorem pushKey_st (v : Byte) : (pushKey v e).st = e.st := rfl
@[simp] theorem pushKey_rnd (v : Byte) : (pushKey v e).rnd = e.rnd := rfl
@[simp] theorem pushKey_phase (v : Byte) : (pushKey v e).phase = e.phase := rfl

@[simp] theorem pushBlock_rk (v : Byte) : (pushBlock v e).rk = e.rk := rfl
@[simp] theorem pushBlock_keyValid (v : Byte) : (pushBlock v e).keyValid = e.keyValid := rfl
@[simp] theorem pushBlock_keyBuf (v : Byte) : (pushBlock v e).keyBuf = e.keyBuf := rfl
@[simp] theorem pushBlock_keyCnt (v : Byte) : (pushBlock v e).keyCnt = e.keyCnt := rfl
@[simp] theorem pushBlock_blkCnt (v : Byte) : (pushBlock v e).blkCnt = saturatingInc e.blkCnt := rfl
@[simp] theorem pushBlock_blockOut (v : Byte) : (pushBlock v e).blockOut = e.blockOut := rfl
@[simp] theorem pushBlock_err (v : Byte) : (pushBlock v e).err = e.err := rfl
@[simp] theorem pushBlock_errInfo (v : Byte) : (pushBlock v e).errInfo = e.errInfo := rfl
@[simp] theorem pushBlock_ksr (v : Byte) : (pushBlock v e).ksr = e.ksr := rfl
@[simp] theorem pushBlock_st (v : Byte) : (pushBlock v e).st = e.st := rfl
@[simp] theorem pushBlock_rnd (v : Byte) : (pushBlock v e).rnd = e.rnd := rfl
@[simp] theorem pushBlock_phase (v : Byte) : (pushBlock v e).phase = e.phase := rfl

@[simp] theorem clearKeyCnt_rk : (clearKeyCnt e).rk = e.rk := rfl
@[simp] theorem clearKeyCnt_keyValid : (clearKeyCnt e).keyValid = e.keyValid := rfl
@[simp] theorem clearKeyCnt_keyBuf : (clearKeyCnt e).keyBuf = e.keyBuf := rfl
@[simp] theorem clearKeyCnt_keyCnt : (clearKeyCnt e).keyCnt = 0 := rfl
@[simp] theorem clearKeyCnt_blkBuf : (clearKeyCnt e).blkBuf = e.blkBuf := rfl
@[simp] theorem clearKeyCnt_blkCnt : (clearKeyCnt e).blkCnt = e.blkCnt := rfl
@[simp] theorem clearKeyCnt_blockOut : (clearKeyCnt e).blockOut = e.blockOut := rfl
@[simp] theorem clearKeyCnt_err : (clearKeyCnt e).err = e.err := rfl
@[simp] theorem clearKeyCnt_errInfo : (clearKeyCnt e).errInfo = e.errInfo := rfl
@[simp] theorem clearKeyCnt_ksr : (clearKeyCnt e).ksr = e.ksr := rfl
@[simp] theorem clearKeyCnt_st : (clearKeyCnt e).st = e.st := rfl
@[simp] theorem clearKeyCnt_rnd : (clearKeyCnt e).rnd = e.rnd := rfl
@[simp] theorem clearKeyCnt_phase : (clearKeyCnt e).phase = e.phase := rfl

@[simp] theorem clearBlkCnt_rk : (clearBlkCnt e).rk = e.rk := rfl
@[simp] theorem clearBlkCnt_keyValid : (clearBlkCnt e).keyValid = e.keyValid := rfl
@[simp] theorem clearBlkCnt_keyBuf : (clearBlkCnt e).keyBuf = e.keyBuf := rfl
@[simp] theorem clearBlkCnt_keyCnt : (clearBlkCnt e).keyCnt = e.keyCnt := rfl
@[simp] theorem clearBlkCnt_blkBuf : (clearBlkCnt e).blkBuf = e.blkBuf := rfl
@[simp] theorem clearBlkCnt_blkCnt : (clearBlkCnt e).blkCnt = 0 := rfl
@[simp] theorem clearBlkCnt_blockOut : (clearBlkCnt e).blockOut = e.blockOut := rfl
@[simp] theorem clearBlkCnt_err : (clearBlkCnt e).err = e.err := rfl
@[simp] theorem clearBlkCnt_errInfo : (clearBlkCnt e).errInfo = e.errInfo := rfl
@[simp] theorem clearBlkCnt_ksr : (clearBlkCnt e).ksr = e.ksr := rfl
@[simp] theorem clearBlkCnt_st : (clearBlkCnt e).st = e.st := rfl
@[simp] theorem clearBlkCnt_rnd : (clearBlkCnt e).rnd = e.rnd := rfl
@[simp] theorem clearBlkCnt_phase : (clearBlkCnt e).phase = e.phase := rfl

@[simp] theorem setOutcome_rk (c : ErrCode) (b : Byte) : (setOutcome c b e).rk = e.rk := rfl
@[simp] theorem setOutcome_keyValid (c : ErrCode) (b : Byte) : (setOutcome c b e).keyValid = e.keyValid := rfl
@[simp] theorem setOutcome_keyBuf (c : ErrCode) (b : Byte) : (setOutcome c b e).keyBuf = e.keyBuf := rfl
@[simp] theorem setOutcome_keyCnt (c : ErrCode) (b : Byte) : (setOutcome c b e).keyCnt = e.keyCnt := rfl
@[simp] theorem setOutcome_blkBuf (c : ErrCode) (b : Byte) : (setOutcome c b e).blkBuf = e.blkBuf := rfl
@[simp] theorem setOutcome_blkCnt (c : ErrCode) (b : Byte) : (setOutcome c b e).blkCnt = e.blkCnt := rfl
@[simp] theorem setOutcome_blockOut (c : ErrCode) (b : Byte) : (setOutcome c b e).blockOut = e.blockOut := rfl
@[simp] theorem setOutcome_err (c : ErrCode) (b : Byte) : (setOutcome c b e).err = errBits c := rfl
@[simp] theorem setOutcome_errInfo (c : ErrCode) (b : Byte) : (setOutcome c b e).errInfo = b := rfl
@[simp] theorem setOutcome_ksr (c : ErrCode) (b : Byte) : (setOutcome c b e).ksr = e.ksr := rfl
@[simp] theorem setOutcome_st (c : ErrCode) (b : Byte) : (setOutcome c b e).st = e.st := rfl
@[simp] theorem setOutcome_rnd (c : ErrCode) (b : Byte) : (setOutcome c b e).rnd = e.rnd := rfl
@[simp] theorem setOutcome_phase (c : ErrCode) (b : Byte) : (setOutcome c b e).phase = e.phase := rfl

@[simp] theorem complete_rk : (complete e).rk = e.rk := rfl
@[simp] theorem complete_keyValid : (complete e).keyValid = e.keyValid := rfl
@[simp] theorem complete_keyBuf : (complete e).keyBuf = e.keyBuf := rfl
@[simp] theorem complete_keyCnt : (complete e).keyCnt = e.keyCnt := rfl
@[simp] theorem complete_blkBuf : (complete e).blkBuf = e.blkBuf := rfl
@[simp] theorem complete_blkCnt : (complete e).blkCnt = e.blkCnt := rfl
@[simp] theorem complete_blockOut : (complete e).blockOut = e.blockOut := rfl
@[simp] theorem complete_err : (complete e).err = e.err := rfl
@[simp] theorem complete_errInfo : (complete e).errInfo = e.errInfo := rfl
@[simp] theorem complete_ksr : (complete e).ksr = 0 := rfl
@[simp] theorem complete_st : (complete e).st = 0 := rfl
@[simp] theorem complete_rnd : (complete e).rnd = 0 := rfl
@[simp] theorem complete_phase : (complete e).phase = .idle := rfl

@[simp] theorem raise_rk (c : ErrCode) (b : Byte) : (raise c b e).rk = e.rk := rfl
@[simp] theorem raise_keyValid (c : ErrCode) (b : Byte) : (raise c b e).keyValid = e.keyValid := rfl
@[simp] theorem raise_keyBuf (c : ErrCode) (b : Byte) : (raise c b e).keyBuf = e.keyBuf := rfl
@[simp] theorem raise_keyCnt (c : ErrCode) (b : Byte) : (raise c b e).keyCnt = e.keyCnt := rfl
@[simp] theorem raise_blkBuf (c : ErrCode) (b : Byte) : (raise c b e).blkBuf = e.blkBuf := rfl
@[simp] theorem raise_blkCnt (c : ErrCode) (b : Byte) : (raise c b e).blkCnt = e.blkCnt := rfl
@[simp] theorem raise_blockOut (c : ErrCode) (b : Byte) : (raise c b e).blockOut = e.blockOut := rfl
@[simp] theorem raise_err (c : ErrCode) (b : Byte) : (raise c b e).err = errBits c := rfl
@[simp] theorem raise_errInfo (c : ErrCode) (b : Byte) : (raise c b e).errInfo = b := rfl
@[simp] theorem raise_ksr (c : ErrCode) (b : Byte) : (raise c b e).ksr = 0 := rfl
@[simp] theorem raise_st (c : ErrCode) (b : Byte) : (raise c b e).st = 0 := rfl
@[simp] theorem raise_rnd (c : ErrCode) (b : Byte) : (raise c b e).rnd = 0 := rfl
@[simp] theorem raise_phase (c : ErrCode) (b : Byte) : (raise c b e).phase = .idle := rfl

@[simp] theorem finish_rk : (finish e).rk = e.rk := rfl
@[simp] theorem finish_keyValid : (finish e).keyValid = e.keyValid := rfl
@[simp] theorem finish_keyBuf : (finish e).keyBuf = e.keyBuf := rfl
@[simp] theorem finish_keyCnt : (finish e).keyCnt = e.keyCnt := rfl
@[simp] theorem finish_blkBuf : (finish e).blkBuf = e.blkBuf := rfl
@[simp] theorem finish_blkCnt : (finish e).blkCnt = e.blkCnt := rfl
@[simp] theorem finish_blockOut : (finish e).blockOut = e.blockOut := rfl
@[simp] theorem finish_err : (finish e).err = 0 := rfl
@[simp] theorem finish_errInfo : (finish e).errInfo = 0 := rfl
@[simp] theorem finish_ksr : (finish e).ksr = 0 := rfl
@[simp] theorem finish_st : (finish e).st = 0 := rfl
@[simp] theorem finish_rnd : (finish e).rnd = 0 := rfl
@[simp] theorem finish_phase : (finish e).phase = .idle := rfl

@[simp] theorem emitBlock_rk (v : Block) : (emitBlock v e).rk = e.rk := rfl
@[simp] theorem emitBlock_keyValid (v : Block) : (emitBlock v e).keyValid = e.keyValid := rfl
@[simp] theorem emitBlock_keyBuf (v : Block) : (emitBlock v e).keyBuf = e.keyBuf := rfl
@[simp] theorem emitBlock_keyCnt (v : Block) : (emitBlock v e).keyCnt = e.keyCnt := rfl
@[simp] theorem emitBlock_blkBuf (v : Block) : (emitBlock v e).blkBuf = e.blkBuf := rfl
@[simp] theorem emitBlock_blkCnt (v : Block) : (emitBlock v e).blkCnt = e.blkCnt := rfl
@[simp] theorem emitBlock_blockOut (v : Block) : (emitBlock v e).blockOut = bytesBe8 v := rfl
@[simp] theorem emitBlock_err (v : Block) : (emitBlock v e).err = e.err := rfl
@[simp] theorem emitBlock_errInfo (v : Block) : (emitBlock v e).errInfo = e.errInfo := rfl
@[simp] theorem emitBlock_ksr (v : Block) : (emitBlock v e).ksr = e.ksr := rfl
@[simp] theorem emitBlock_st (v : Block) : (emitBlock v e).st = e.st := rfl
@[simp] theorem emitBlock_rnd (v : Block) : (emitBlock v e).rnd = e.rnd := rfl
@[simp] theorem emitBlock_phase (v : Block) : (emitBlock v e).phase = e.phase := rfl

@[simp] theorem startKeySchedule_rk : (startKeySchedule e).rk = setRoundKey e.rk 0 (roundKeyOf (be80 e.keyBuf)) := rfl
@[simp] theorem startKeySchedule_keyValid : (startKeySchedule e).keyValid = false := rfl
@[simp] theorem startKeySchedule_keyBuf : (startKeySchedule e).keyBuf = e.keyBuf := rfl
@[simp] theorem startKeySchedule_keyCnt : (startKeySchedule e).keyCnt = e.keyCnt := rfl
@[simp] theorem startKeySchedule_blkBuf : (startKeySchedule e).blkBuf = e.blkBuf := rfl
@[simp] theorem startKeySchedule_blkCnt : (startKeySchedule e).blkCnt = e.blkCnt := rfl
@[simp] theorem startKeySchedule_blockOut : (startKeySchedule e).blockOut = e.blockOut := rfl
@[simp] theorem startKeySchedule_err : (startKeySchedule e).err = e.err := rfl
@[simp] theorem startKeySchedule_errInfo : (startKeySchedule e).errInfo = e.errInfo := rfl
@[simp] theorem startKeySchedule_ksr : (startKeySchedule e).ksr = be80 e.keyBuf := rfl
@[simp] theorem startKeySchedule_st : (startKeySchedule e).st = e.st := rfl
@[simp] theorem startKeySchedule_rnd : (startKeySchedule e).rnd = 0 := rfl
@[simp] theorem startKeySchedule_phase : (startKeySchedule e).phase = .keysched := rfl

@[simp] theorem keyScheduleStep_rk : (keyScheduleStep e).rk = setRoundKey e.rk (e.rnd + 1) (roundKeyOf (keyUpdate e.ksr (e.rnd + 1))) := rfl
@[simp] theorem keyScheduleStep_keyValid : (keyScheduleStep e).keyValid = e.keyValid := rfl
@[simp] theorem keyScheduleStep_keyBuf : (keyScheduleStep e).keyBuf = e.keyBuf := rfl
@[simp] theorem keyScheduleStep_keyCnt : (keyScheduleStep e).keyCnt = e.keyCnt := rfl
@[simp] theorem keyScheduleStep_blkBuf : (keyScheduleStep e).blkBuf = e.blkBuf := rfl
@[simp] theorem keyScheduleStep_blkCnt : (keyScheduleStep e).blkCnt = e.blkCnt := rfl
@[simp] theorem keyScheduleStep_blockOut : (keyScheduleStep e).blockOut = e.blockOut := rfl
@[simp] theorem keyScheduleStep_err : (keyScheduleStep e).err = e.err := rfl
@[simp] theorem keyScheduleStep_errInfo : (keyScheduleStep e).errInfo = e.errInfo := rfl
@[simp] theorem keyScheduleStep_ksr : (keyScheduleStep e).ksr = keyUpdate e.ksr (e.rnd + 1) := rfl
@[simp] theorem keyScheduleStep_st : (keyScheduleStep e).st = e.st := rfl
@[simp] theorem keyScheduleStep_rnd : (keyScheduleStep e).rnd = e.rnd + 1 := rfl
@[simp] theorem keyScheduleStep_phase : (keyScheduleStep e).phase = e.phase := rfl

@[simp] theorem startEncrypt_rk : (startEncrypt e).rk = e.rk := rfl
@[simp] theorem startEncrypt_keyValid : (startEncrypt e).keyValid = e.keyValid := rfl
@[simp] theorem startEncrypt_keyBuf : (startEncrypt e).keyBuf = e.keyBuf := rfl
@[simp] theorem startEncrypt_keyCnt : (startEncrypt e).keyCnt = e.keyCnt := rfl
@[simp] theorem startEncrypt_blkBuf : (startEncrypt e).blkBuf = e.blkBuf := rfl
@[simp] theorem startEncrypt_blkCnt : (startEncrypt e).blkCnt = e.blkCnt := rfl
@[simp] theorem startEncrypt_blockOut : (startEncrypt e).blockOut = e.blockOut := rfl
@[simp] theorem startEncrypt_err : (startEncrypt e).err = e.err := rfl
@[simp] theorem startEncrypt_errInfo : (startEncrypt e).errInfo = e.errInfo := rfl
@[simp] theorem startEncrypt_ksr : (startEncrypt e).ksr = e.ksr := rfl
@[simp] theorem startEncrypt_st : (startEncrypt e).st = be64 e.blkBuf := rfl
@[simp] theorem startEncrypt_rnd : (startEncrypt e).rnd = 0 := rfl
@[simp] theorem startEncrypt_phase : (startEncrypt e).phase = .enc := rfl

@[simp] theorem encryptStep_rk : (encryptStep e).rk = e.rk := rfl
@[simp] theorem encryptStep_keyValid : (encryptStep e).keyValid = e.keyValid := rfl
@[simp] theorem encryptStep_keyBuf : (encryptStep e).keyBuf = e.keyBuf := rfl
@[simp] theorem encryptStep_keyCnt : (encryptStep e).keyCnt = e.keyCnt := rfl
@[simp] theorem encryptStep_blkBuf : (encryptStep e).blkBuf = e.blkBuf := rfl
@[simp] theorem encryptStep_blkCnt : (encryptStep e).blkCnt = e.blkCnt := rfl
@[simp] theorem encryptStep_blockOut : (encryptStep e).blockOut = e.blockOut := rfl
@[simp] theorem encryptStep_err : (encryptStep e).err = e.err := rfl
@[simp] theorem encryptStep_errInfo : (encryptStep e).errInfo = e.errInfo := rfl
@[simp] theorem encryptStep_ksr : (encryptStep e).ksr = e.ksr := rfl
@[simp] theorem encryptStep_st : (encryptStep e).st = cipherRound e.st (roundKey e.rk e.rnd) := rfl
@[simp] theorem encryptStep_rnd : (encryptStep e).rnd = e.rnd + 1 := rfl
@[simp] theorem encryptStep_phase : (encryptStep e).phase = e.phase := rfl

@[simp] theorem startDecrypt_rk : (startDecrypt e).rk = e.rk := rfl
@[simp] theorem startDecrypt_keyValid : (startDecrypt e).keyValid = e.keyValid := rfl
@[simp] theorem startDecrypt_keyBuf : (startDecrypt e).keyBuf = e.keyBuf := rfl
@[simp] theorem startDecrypt_keyCnt : (startDecrypt e).keyCnt = e.keyCnt := rfl
@[simp] theorem startDecrypt_blkBuf : (startDecrypt e).blkBuf = e.blkBuf := rfl
@[simp] theorem startDecrypt_blkCnt : (startDecrypt e).blkCnt = e.blkCnt := rfl
@[simp] theorem startDecrypt_blockOut : (startDecrypt e).blockOut = e.blockOut := rfl
@[simp] theorem startDecrypt_err : (startDecrypt e).err = e.err := rfl
@[simp] theorem startDecrypt_errInfo : (startDecrypt e).errInfo = e.errInfo := rfl
@[simp] theorem startDecrypt_ksr : (startDecrypt e).ksr = e.ksr := rfl
@[simp] theorem startDecrypt_st : (startDecrypt e).st = be64 e.blkBuf := rfl
@[simp] theorem startDecrypt_rnd : (startDecrypt e).rnd = 31 := rfl
@[simp] theorem startDecrypt_phase : (startDecrypt e).phase = .dec := rfl

@[simp] theorem decryptStep_rk : (decryptStep e).rk = e.rk := rfl
@[simp] theorem decryptStep_keyValid : (decryptStep e).keyValid = e.keyValid := rfl
@[simp] theorem decryptStep_keyBuf : (decryptStep e).keyBuf = e.keyBuf := rfl
@[simp] theorem decryptStep_keyCnt : (decryptStep e).keyCnt = e.keyCnt := rfl
@[simp] theorem decryptStep_blkBuf : (decryptStep e).blkBuf = e.blkBuf := rfl
@[simp] theorem decryptStep_blkCnt : (decryptStep e).blkCnt = e.blkCnt := rfl
@[simp] theorem decryptStep_blockOut : (decryptStep e).blockOut = e.blockOut := rfl
@[simp] theorem decryptStep_err : (decryptStep e).err = e.err := rfl
@[simp] theorem decryptStep_errInfo : (decryptStep e).errInfo = e.errInfo := rfl
@[simp] theorem decryptStep_ksr : (decryptStep e).ksr = e.ksr := rfl
@[simp] theorem decryptStep_st : (decryptStep e).st = cipherRoundInv e.st (roundKey e.rk e.rnd) := rfl
@[simp] theorem decryptStep_rnd : (decryptStep e).rnd = e.rnd - 1 := rfl
@[simp] theorem decryptStep_phase : (decryptStep e).phase = e.phase := rfl

end Sys2Proof.Machine
end

