-- ==== Sys2Proof/Laws/Ops.lean ====
section
/-!
SUPPORT. Spec lemmas of the register operations: the saturating counter, the push ports, and what a read of the window
depends on.
-/

namespace Sys2Proof.Machine

/-- R54: the counter after a push, as a number. -/
theorem saturatingInc_toNat (n : Byte) : (saturatingInc n).toNat = min (n.toNat + 1) 255 := by
  revert n; decide +kernel

theorem pushKey_keyBuf_of_lt (v : Byte) {e : Engine} (h : e.keyCnt.toNat < 10) :
    (pushKey v e).keyBuf = e.keyBuf.set e.keyCnt.toNat v h := by simp [pushKey, h]

theorem pushKey_keyBuf_of_ge (v : Byte) {e : Engine} (h : ¬ e.keyCnt.toNat < 10) : (pushKey v e).keyBuf = e.keyBuf := by
  simp [pushKey, h]

theorem pushBlock_blkBuf_of_lt (v : Byte) {e : Engine} (h : e.blkCnt.toNat < 8) :
    (pushBlock v e).blkBuf = e.blkBuf.set e.blkCnt.toNat v h := by simp [pushBlock, h]

theorem pushBlock_blkBuf_of_ge (v : Byte) {e : Engine} (h : ¬ e.blkCnt.toNat < 8) : (pushBlock v e).blkBuf = e.blkBuf := by
  simp [pushBlock, h]

/-- A read of the window depends only on the registers its offset shows (R52). -/
theorem memRead_congr {e f : Engine} (off : Byte)
    (h3 : off ≠ 3 ∨ (e.keyValid = f.keyValid ∧ e.err = f.err)) (h4 : off ≠ 4 ∨ e.errInfo = f.errInfo)
    (h5 : off ≠ 5 ∨ e.keyCnt = f.keyCnt) (h6 : off ≠ 6 ∨ e.blkCnt = f.blkCnt)
    (h8 : ¬ (8 ≤ off.toNat ∧ off.toNat < 16) ∨ e.blockOut = f.blockOut) : memRead off e = memRead off f := by
  unfold memRead
  by_cases g3 : off = 3
  · rcases h3 with h | ⟨a, b⟩
    · exact absurd g3 h
    · simp [g3, status, a, b]
  by_cases g4 : off = 4
  · rcases h4 with h | a
    · exact absurd g4 h
    · simp [g4, a]
  by_cases g5 : off = 5
  · rcases h5 with h | a
    · exact absurd g5 h
    · simp [g5, a]
  by_cases g6 : off = 6
  · rcases h6 with h | a
    · exact absurd g6 h
    · simp [g6, a]
  rw [if_neg g3, if_neg g3, if_neg g4, if_neg g4, if_neg g5, if_neg g5, if_neg g6, if_neg g6, blockOutByte, blockOutByte]
  rcases h8 with h | h
  · rw [dif_neg h, dif_neg h]
  · simp only [h]

end Sys2Proof.Machine
end

