-- ==== Sys2Proof/Laws/PerInstr.lean ====
section
/-!
SUPPORT. The family `FitsItsRow`: the byte a well-formed command encodes to matches the command's own row of the opcode table
(spec/30_encoding.md R83, R84), constructor by constructor.
-/

namespace Sys2Proof.Laws.FitsItsRow

/-- A well-formed command's encoding matches its row. -/
def Statement (i : Instr) : Prop := i.wellFormed = true → i.row.Matches (encode i) = true

theorem loadkey : Statement .loadkey := fun _ => rfl
theorem encrypt : Statement .encrypt := fun _ => rfl
theorem decrypt : Statement .decrypt := fun _ => rfl
theorem illegal00 : Statement .illegal00 := fun _ => rfl
theorem illegal04 (c : Byte) : Statement (.illegal04 c) := id
theorem illegal08 (c : Byte) : Statement (.illegal08 c) := id
theorem illegal10 (c : Byte) : Statement (.illegal10 c) := id
theorem illegal20 (c : Byte) : Statement (.illegal20 c) := id
theorem illegal40 (c : Byte) : Statement (.illegal40 c) := id
theorem illegal80 (c : Byte) : Statement (.illegal80 c) := id

end Sys2Proof.Laws.FitsItsRow
end

