-- ==== Sys2Proof/Laws/Sequencer.lean ====
section
/-!
SUPPORT. Spec lemmas of the sequencer and of the commands' checks: how internal steps compose, that they do nothing in IDLE, that
their control (PHASE, RND) depends on nothing else, and how a command begins.
-/

namespace Sys2Proof.Machine

theorem tick_of_idle {e : Engine} (h : e.phase = .idle) : tick e = e := by rw [tick, h]

theorem runTicks_of_idle {e : Engine} (h : e.phase = .idle) : ∀ n, runTicks n e = e
  | 0 => rfl
  | n + 1 => by rw [runTicks, tick_of_idle h, runTicks_of_idle h n]

/-- The last internal step comes last. -/
theorem runTicks_succ (n : Nat) (e : Engine) : runTicks (n + 1) e = tick (runTicks n e) := by
  induction n generalizing e with
  | zero => rfl
  | succ n ih => rw [runTicks, ih]; rfl

/-- The control of an internal step: PHASE and RND after it are functions of PHASE and RND before it. -/
theorem tick_control {e f : Engine} (hp : e.phase = f.phase) (hr : e.rnd = f.rnd) :
    (tick e).phase = (tick f).phase ∧ (tick e).rnd = (tick f).rnd := by
  unfold tick
  rw [← hp, ← hr]
  split
  · exact ⟨hp, hr⟩
  all_goals split <;> simp [hp, hr]

/-- A raised command is over: no internal step changes it (R207). -/
theorem runTicks_raise (n : Nat) (c : ErrCode) (b : Byte) (e : Engine) : runTicks n (raise c b e) = raise c b e :=
  runTicks_of_idle rfl n

/-- How LOADKEY begins. -/
theorem beginLoadkey_cases (e : Engine) :
    (e.keyCnt = 10 ∧ beginLoadkey e = startKeySchedule (clearKeyCnt e)) ∨
    (e.keyCnt ≠ 10 ∧ beginLoadkey e = raise .keySize e.keyCnt (clearKeyCnt e)) := by
  unfold beginLoadkey
  by_cases h : e.keyCnt = 10
  · exact .inl ⟨h, if_neg (by simp [h])⟩
  · exact .inr ⟨h, if_pos h⟩

/-- How ENCRYPT and DECRYPT begin. -/
theorem beginCrypt_cases (start : Engine → Engine) (e : Engine) :
    (e.keyValid = true ∧ e.blkCnt = 8 ∧ beginCrypt start e = start (clearBlkCnt e)) ∨
    (e.keyValid = true ∧ e.blkCnt ≠ 8 ∧ beginCrypt start e = raise .blockSize e.blkCnt (clearBlkCnt e)) ∨
    (e.keyValid = false ∧ beginCrypt start e = raise .noKey 0 (clearBlkCnt e)) := by
  unfold beginCrypt
  by_cases hk : e.keyValid = false
  · exact .inr (.inr ⟨hk, if_pos hk⟩)
  · have hk' : e.keyValid = true := by simpa using hk
    rw [if_neg hk]
    by_cases h : e.blkCnt = 8
    · exact .inl ⟨hk', h, if_neg (by simp [h])⟩
    · exact .inr (.inl ⟨hk', h, if_pos h⟩)

/-- Every command is its beginning, run to the end of its sequence. -/
theorem exec_eq_runTicks (i : Instr) (s : State) :
    exec i s = .next (s.withEngine (runTicks 32 (beginCommand i s.engine))) := by
  cases i <;> rfl

end Sys2Proof.Machine
end

