-- ==== Sys2Proof/Laws/Step.lean ====
section
/-!
SUPPORT. What one step can do, said once: the inversion lemma of `step`, how a run unrolls, and how long an access holds the host.
-/

namespace Sys2Proof.Machine

theorem next_inj {s t : State} (h : (Host.Outcome.next s : Host.Outcome State Fault Refusal) = .next t) : s = t := by
  injection h

theorem exec_next_inv {i : Instr} {s t : State} (h : exec i s = .next t) :
    t = s.withEngine (runTicks 32 (beginCommand i s.engine)) := by
  rw [exec_eq_runTicks] at h; exact (next_inj h).symm

/-- Everything a step that answers next can do to the engine: nothing (an idle step, a read, an ignored write), a push, a
command, or reset. -/
theorem step_engine_cases {s t : State} (h : step s = .next t) :
    t.engine = s.engine ∨
    ∃ a rest, s.pending = a :: rest ∧
      ((∃ v, a = Safety.wr 0x00 v ∧ t.engine = pushKey v s.engine) ∨
       (∃ v, a = Safety.wr 0x01 v ∧ t.engine = pushBlock v s.engine) ∨
       (∃ c, a = Safety.wr 0x02 c ∧ t.engine = runTicks 32 (beginCommand (decode c) s.engine)) ∨
       (Safety.IsReset a ∧ t.engine = Engine.reset)) := by
  unfold step serveNext at h
  match hp : s.pending with
  | [] => rw [hp] at h; have := next_inj h; subst this; exact .inl rfl
  | a :: rest =>
    rw [hp] at h
    match a with
    | .read (.elsewhere x) size => cases h
    | .write (.elsewhere x) size v => cases h
    | .read (.window off) size =>
      simp only [serve, busAccess] at h
      split at h
      · have := next_inj h; subst this; exact .inl rfl
      · cases h
    | .write (.window off) size v =>
      simp only [serve, busAccess] at h
      split at h
      · rename_i hs; subst hs
        unfold memWrite at h
        split at h
        · rename_i h0; subst h0
          have := next_inj h; subst this; exact .inr ⟨_, _, rfl, .inl ⟨v, rfl, rfl⟩⟩
        split at h
        · rename_i _ h1; subst h1
          have := next_inj h; subst this; exact .inr ⟨_, _, rfl, .inr (.inl ⟨v, rfl, rfl⟩)⟩
        split at h
        · rename_i _ _ h2; subst h2
          rw [exec_next_inv h]; exact .inr ⟨_, _, rfl, .inr (.inr (.inl ⟨v, rfl, rfl⟩))⟩
        · have := next_inj h; subst this; exact .inl rfl
      · cases h
    | .reset => have := next_inj h; subst this; exact .inr ⟨_, _, rfl, .inr (.inr (.inr ⟨trivial, rfl⟩))⟩
    | .resetDuringCommand c k =>
      have := next_inj h; subst this; exact .inr ⟨_, _, rfl, .inr (.inr (.inr ⟨trivial, rfl⟩))⟩

/-- A step takes the first pending access off the list, and no other. -/
theorem step_pending {s t : State} (h : step s = .next t) : t.pending = s.pending.tail := by
  unfold step serveNext at h
  match hp : s.pending with
  | [] => rw [hp] at h; have := next_inj h; subst this; exact hp
  | a :: rest =>
    rw [hp] at h
    match a with
    | .read (.elsewhere x) size => cases h
    | .write (.elsewhere x) size v => cases h
    | .read (.window off) size =>
      simp only [serve, busAccess] at h
      split at h
      · have := next_inj h; subst this; rfl
      · cases h
    | .write (.window off) size v =>
      simp only [serve, busAccess] at h
      split at h
      · unfold memWrite at h
        split at h
        · have := next_inj h; subst this; rfl
        split at h
        · have := next_inj h; subst this; rfl
        split at h
        · rw [exec_next_inv h]; rfl
        · have := next_inj h; subst this; rfl
      · cases h
    | .reset => have := next_inj h; subst this; rfl
    | .resetDuringCommand c k => have := next_inj h; subst this; rfl

theorem runSteps_zero (s : State) : Safety.runSteps 0 s = .next s := rfl

/-- A run unrolls from its first step. -/
theorem runSteps_succ (n : Nat) (s : State) : Safety.runSteps (n + 1) s =
    (match step s with | .next t => Safety.runSteps n t | .fault r => .fault r | .refused r => .refused r) := by
  show Host.Core.run Sys2Proof.core (n + 1) s = _
  simp only [Host.Core.run, Sys2Proof.core]
  cases step s <;> rfl

theorem runSteps_of_step {s t : State} (n : Nat) (h : step s = .next t) :
    Safety.runSteps (n + 1) s = Safety.runSteps n t := by
  rw [runSteps_succ, h]

theorem runSteps_next_inv {s t : State} {n : Nat} (h : Safety.runSteps (n + 1) s = .next t) :
    ∃ u, step s = .next u ∧ Safety.runSteps n u = .next t := by
  rw [runSteps_succ] at h
  match hs : step s with
  | .next u => rw [hs] at h; exact ⟨u, rfl, h⟩
  | .refused r => rw [hs] at h; cases h

@[simp] theorem accessHold_rd (off : Byte) (e : Engine) : accessHold (Safety.rd off) e = some readHold := rfl

@[simp] theorem accessHold_wr (off v : Byte) (e : Engine) : accessHold (Safety.wr off v) e = some (writeHold off v e) := rfl

theorem writeHold_cmd (c : Byte) (e : Engine) :
    writeHold 0x02 c e = commandHold (decode c) (endsInError (decode c) e) := if_pos rfl

theorem writeHold_plain {off : Byte} (h : off ≠ 0x02) (v : Byte) (e : Engine) : writeHold off v e = plainHold := if_neg h

/-- The holds are told apart by the outcome the command leaves in ERR (R244). -/
theorem endsInError_iff {i : Instr} {s t : State} (h : exec i s = .next t) :
    endsInError i s.engine = true ↔ t.engine.err ≠ 0 := by
  rw [exec_next_inv h]; exact decide_eq_true_iff

end Sys2Proof.Machine
end

