-- ==== Sys2Proof/Tests/Slice0.lean ====
section
/-!
SUPPORT. The model's own tests: values written out from the spec's encodings and from spec/95_test_vectors.md (each test names
its vector), the smoke test of WellFormed, and a witness for the hypotheses of every statement that has some.
-/

namespace Sys2Proof.Tests

open Sys2Proof Sys2Proof.Machine Sys2Proof.Safety

/-! ## WellFormed: an ill-formed term for each check (R84: the byte must match its row) -/

theorem test_wellFormed_illegal04 : (Instr.illegal04 0x08).wellFormed = false ∧ (Instr.illegal04 0x03).wellFormed = false := by decide
theorem test_wellFormed_illegal08 : (Instr.illegal08 0x10).wellFormed = false ∧ (Instr.illegal08 0x07).wellFormed = false := by decide
theorem test_wellFormed_illegal10 : (Instr.illegal10 0x20).wellFormed = false ∧ (Instr.illegal10 0x0F).wellFormed = false := by decide
theorem test_wellFormed_illegal20 : (Instr.illegal20 0x40).wellFormed = false ∧ (Instr.illegal20 0x1F).wellFormed = false := by decide
theorem test_wellFormed_illegal40 : (Instr.illegal40 0x80).wellFormed = false ∧ (Instr.illegal40 0x3F).wellFormed = false := by decide
theorem test_wellFormed_illegal80 : (Instr.illegal80 0x7F).wellFormed = false ∧ (Instr.illegal80 0x01).wellFormed = false := by decide

/-! ## Decoding: words written out bit by bit from R83 and R84, the ends of each illegal range among them -/

theorem test_decode_loadkey : decode 0b00000001 = .loadkey := by decide
theorem test_decode_encrypt : decode 0b00000010 = .encrypt := by decide
theorem test_decode_decrypt : decode 0b00000011 = .decrypt := by decide
theorem test_decode_illegal00 : decode 0b00000000 = .illegal00 := by decide
theorem test_decode_illegal04 : decode 0b00000100 = .illegal04 0x04 ∧ decode 0b00000111 = .illegal04 0x07 := by decide
theorem test_decode_illegal08 : decode 0b00001000 = .illegal08 0x08 ∧ decode 0b00001111 = .illegal08 0x0F := by decide
theorem test_decode_illegal10 : decode 0b00010000 = .illegal10 0x10 ∧ decode 0b00011111 = .illegal10 0x1F := by decide
theorem test_decode_illegal20 : decode 0b00100000 = .illegal20 0x20 ∧ decode 0b00111111 = .illegal20 0x3F := by decide
theorem test_decode_illegal40 : decode 0b01000000 = .illegal40 0x40 ∧ decode 0b01111111 = .illegal40 0x7F := by decide
/-- 0x81 has LOADKEY's low bits and is illegal: all 8 bits are compared (R177). -/
theorem test_decode_illegal80 : decode 0b10000001 = .illegal80 0x81 ∧ decode 0b11111111 = .illegal80 0xFF := by decide
/-- A word longer than the one byte of R85 is no command; a table word's bits are numbered from bit 0. -/
theorem test_decodeTableWord : decodeTableWord 8 0x83 = some (.illegal80 0x83) ∧ decodeTableWord 16 0x0101 = none := by decide

/-! ## The cipher core (95_test_vectors.md sections 2 to 6) -/

/-- V-SB-1, rows 9 and E. -/
theorem test_sbox : sbox 0x9 = 0xE ∧ sboxInv 0xE = 0x9 ∧ sbox 0xF = 0x2 ∧ sboxInv 0x0 = 0x5 := by decide
/-- V-SL-1. -/
theorem test_sLayer : sLayer 0x0123456789ABCDEF = 0xC56B90AD3EF84712 ∧ sLayerInv 0x0123456789ABCDEF = 0x5EF8C12DB463079A := by
  decide +kernel
/-- V-SL-1 and V-SL-10: the two directions of the permutation differ. -/
theorem test_pLayer : pLayer 0x0123456789ABCDEF = 0x00FF0F0F33335555 ∧ pLayerInv 0x0123456789ABCDEF = 0x3500350F35F035FF ∧
    pLayer 0xFEDCBA9876543210 = 0xFF00F0F0CCCCAAAA := by decide +kernel
/-- V-RND-4 and V-RND-6. -/
theorem test_cipherRound : cipherRound 0x0123456789ABCDEF 0x0000000000000000 = 0x9B70E16C32E559A6 ∧
    cipherRound 0xFFFFFFFF00000000 0xC000000000000000 = 0x80FF00FFFF008000 := by decide +kernel
/-- V-TRACE-2, row 31. -/
theorem test_cipherRoundInv : cipherRoundInv 0x5579C1387B228445 0x6DAB31744F41D700 = 0xC19ABFEEBAFBC168 := by decide +kernel
/-- V-KU-7, all three steps; V-KU-2, counter bit 4 into bit 19. -/
theorem test_keyUpdate : rotateKey 0x0123456789ABCDEF0123 = 0xE024602468ACF13579BD ∧
    substituteTop 0xE024602468ACF13579BD = 0x1024602468ACF13579BD ∧
    keyUpdate 0x0123456789ABCDEF0123 1 = 0x1024602468ACF135F9BD ∧
    keyUpdate 0 16 = 0xC0000000000000080000 := by decide
/-- V-KS-1: the whole schedule of 0x00000000000000000000, RK[0] to RK[31]. -/
theorem test_keySchedule_vks1 : (keySchedule 0x00000000000000000000).toList =
    [0x0000000000000000, 0xC000000000000000, 0x5000180000000001, 0x60000A0003000001] ++
    [0xB0000C0001400062, 0x900016000180002A, 0x0001920002C00033, 0xA000A0003240005B] ++
    [0xD000D4001400064C, 0x30017A001A800284, 0xE01926002F400355, 0xF00A1C0324C005ED] ++
    [0x800D5E014380649E, 0x4017B001ABC02876, 0x71926802F600357F, 0x10A1CE324D005EC7] ++
    [0x20D5E21439C649A8, 0xC17B041ABC428730, 0xC926B82F60835781, 0x6A1CD924D705EC19] ++
    [0xBD5E0D439B249AEA, 0x07B077ABC1A8736E, 0x426BA0F60EF5783E, 0x41CDA84D741EC1D5] ++
    [0xF5E0E839B509AE8F, 0x2B075EBC1D0736AD, 0x86BA2560EBD783AD, 0x8CDAB0D744AC1D77] ++
    [0x1E0EB19B561AE89B, 0xD075C3C1D6336ACD, 0x8BA27A0EB8783AC9, 0x6DAB31744F41D700] := by decide +kernel
/-- V-KS-2: the whole schedule of 0xFFFFFFFFFFFFFFFFFFFF, RK[0] to RK[31]. -/
theorem test_keySchedule_vks2 : (keySchedule 0xFFFFFFFFFFFFFFFFFFFF).toList =
    [0xFFFFFFFFFFFFFFFF, 0x2FFFFFFFFFFFFFFF, 0x1FFFE5FFFFFFFFFE, 0x7FFFE3FFFCBFFFFE] ++
    [0x4FFFEFFFFC7FFF95, 0x8FFFE9FFFDFFFF8D, 0xFFFE51FFFD3FFFBC, 0xEFFE3FFFCA3FFFA4] ++
    [0x3FFEFDFFC7FFF943, 0xDFFE87FFDFBFF8FB, 0xAFE51BFFD0FFFBF2, 0x0FE3F5FCA37FFA1A] ++
    [0x9FEFC1FC7EBF9469, 0xBFE873FDF83F8FD1, 0x6E51B7FD0E7FBF00, 0x5E3F4DCA36FFA1C8] ++
    [0xCEFC0BC7E9B946D7, 0x2E8739DF8178FD3F, 0x251B45D0E73BF026, 0x43F4E4A368BA1CEE] ++
    [0x7FC0887E9C946D1D, 0xF873AFF8110FD398, 0xC1B47F0E75FF022A, 0x0F4E78368FE1CEB4] ++
    [0x3C08A1E9CF06D1F0, 0xC73AC781143D39EC, 0x3B47D8E758F0228A, 0x04E7A768FB1CEB13] ++
    [0xD08A209CF4ED1F6D, 0x83AC5A1144139E93, 0xA47DB0758B42288D, 0xFE7A548FB60EB167] := by decide +kernel
/-- V-KS-3: the whole schedule of 0x0123456789ABCDEF0123, RK[0] to RK[31]. -/
theorem test_keySchedule_vks3 : (keySchedule 0x0123456789ABCDEF0123).toList =
    [0x0123456789ABCDEF, 0x1024602468ACF135, 0x8F37A2048C048D14, 0xE3C4D1E6F4409181] ++
    [0x62345C789A3CDE8A, 0x92460C468B8F1345, 0xF37A3248C188D172, 0x0C4D1E6F46491832] ++
    [0x0345C189A3CDE8CD, 0xF460C068B831347D, 0xF7A33E8C180D1703, 0xA4D1FEF467D18304] ++
    [0x345C149A3FDE8CFC, 0x360C068B829347FD, 0xFA33E6C180D17055, 0xFD1FFF467CD8301D] ++
    [0x85C15FA3FFE8CF93, 0xA0C070B82BF47FF5, 0x833E54180E170577, 0x21FFD067CA8301CB] ++
    [0xAC15C43FFA0CF95A, 0x9C073582B887FF4B, 0xA3E57380E6B0571B, 0xDFFD347CAE701CDD] ++
    [0x815C7BFFA68F95C2, 0x9073702B8F7FF4DD, 0xFE57120E6E0571E2, 0x0FD37FCAE241CDCD] ++
    [0xF5C781FA6FF95C46, 0x47373EB8F03F4DF1, 0xB57108E6E7D71E08, 0x5D37D6AE211CDCF5] := by decide +kernel
/-- V-KS-1 to V-KS-3, row 31: the whole key register after 31 updates, the 16 bits below the round key among them. -/
theorem test_keyRegister_lastRow :
    keyRegister 0x00000000000000000000 31 = 0x6DAB31744F41D7008759 ∧
    keyRegister 0xFFFFFFFFFFFFFFFFFFFF 31 = 0xFE7A548FB60EB167C511 ∧
    keyRegister 0x0123456789ABCDEF0123 31 = 0x5D37D6AE211CDCF563C1 := by decide +kernel
/-- V-KAT-1 to V-KAT-4, the source's own vectors (R128, 42_round_transform.md R143). -/
theorem test_encryptBlock_kat1 : encryptBlock (keySchedule 0) 0 = 0x5579C1387B228445 := by decide +kernel
theorem test_encryptBlock_kat2 : encryptBlock (keySchedule 0xFFFFFFFFFFFFFFFFFFFF) 0 = 0xE72C46C0F5945049 := by decide +kernel
theorem test_encryptBlock_kat3 : encryptBlock (keySchedule 0) 0xFFFFFFFFFFFFFFFF = 0xA112FFC72F68417B := by decide +kernel
theorem test_encryptBlock_kat4 : encryptBlock (keySchedule 0xFFFFFFFFFFFFFFFFFFFF) 0xFFFFFFFFFFFFFFFF = 0x3333DCD3213210D2 := by
  decide +kernel
/-- V-DEC-5: a block that ENCRYPT did not produce. -/
theorem test_decryptBlock_dec5 : decryptBlock (keySchedule 0) 0 = 0xEF506CB600C2E95F := by decide +kernel

/-! ## Byte order (R60, R61) -/

theorem test_byteOrder : be80 #v[0x01, 0x23, 0x45, 0x67, 0x89, 0xAB, 0xCD, 0xEF, 0x01, 0x23] = 0x0123456789ABCDEF0123 ∧
    be64 #v[0x01, 0x23, 0x45, 0x67, 0x89, 0xAB, 0xCD, 0xEF] = 0x0123456789ABCDEF ∧
    bytesBe8 0x5579C1387B228445 = #v[0x55, 0x79, 0xC1, 0x38, 0x7B, 0x22, 0x84, 0x45] := by decide +kernel

/-! ## One step at a time -/

/-- The reset machine with another engine. -/
def withEngine (e : Engine) : State := { State.reset with engine := e }

/-- Ten pushed key bytes, 01 23 45 67 89 AB CD EF 01 23. -/
def keyPushed : State :=
  withEngine { Engine.reset with keyBuf := #v[0x01, 0x23, 0x45, 0x67, 0x89, 0xAB, 0xCD, 0xEF, 0x01, 0x23], keyCnt := 10 }

/-- A valid instance and eight pushed block bytes. -/
def blockPushed (K : KeyReg) (block : Vector Byte 8) : State :=
  withEngine { Engine.reset with rk := keySchedule K, keyValid := true, blkBuf := block, blkCnt := 8 }

/-- The engine after a next state; the reset engine where the step stops. -/
def engineAfter (o : Host.Outcome State Fault Refusal) : Engine :=
  match o with
  | .next t => t.engine
  | .fault _ => Engine.reset
  | .refused _ => Engine.reset

/-- V-CMD-14: LOADKEY through the sequencer. -/
theorem test_loadkey : let e := engineAfter (exec .loadkey keyPushed)
    roundKey e.rk 1 = 0x1024602468ACF135 ∧ roundKey e.rk 31 = 0x5D37D6AE211CDCF5 ∧ status e = 0x80 ∧ e.keyCnt = 0 := by
  decide +kernel
/-- V-CMD-3b: eleven bytes are KEY_SIZE(11), and KEYVALID stays (D13). -/
theorem test_loadkey_keySize : let e := engineAfter (exec .loadkey (withEngine { Engine.reset with keyCnt := 11, keyValid := true }))
    status e = 0x81 ∧ e.errInfo = 0x0B ∧ e.keyCnt = 0 := by decide
/-- V-ENC-5, through the sequencer. -/
theorem test_encrypt : (engineAfter (exec .encrypt
    (blockPushed 0x0123456789ABCDEF0123 #v[0x01, 0x23, 0x45, 0x67, 0x89, 0xAB, 0xCD, 0xEF]))).blockOut =
    #v[0xF8, 0xDD, 0x50, 0x53, 0x1D, 0x97, 0x3B, 0xDE] := by decide +kernel
/-- V-CMD-6a's last command: BLOCK_SIZE(7). -/
theorem test_encrypt_blockSize : let e := engineAfter (exec .encrypt (withEngine { Engine.reset with keyValid := true, blkCnt := 7 }))
    status e = 0x82 ∧ e.errInfo = 0x07 ∧ e.blkCnt = 0 := by decide
/-- V-DEC-9, through the sequencer. -/
theorem test_decrypt : (engineAfter (exec .decrypt
    (blockPushed 0x0123456789ABCDEF0123 #v[0x01, 0x23, 0x45, 0x67, 0x89, 0xAB, 0xCD, 0xEF]))).blockOut =
    #v[0xAB, 0xC5, 0x7D, 0xCD, 0x40, 0x54, 0xC7, 0x42] := by decide +kernel
/-- V-CMD-5: NO_KEY wins over a short block, and BLK_CNT is cleared. -/
theorem test_decrypt_noKey : let e := engineAfter (exec .decrypt (withEngine { Engine.reset with blkCnt := 7 }))
    status e = 0x03 ∧ e.errInfo = 0x00 ∧ e.blkCnt = 0 := by decide
/-- V-CMD-7a, and V-CMD-7b's first and last: an illegal command keeps the pushed bytes. -/
theorem test_illegal00 : engineAfter (exec .illegal00 State.reset) = { Engine.reset with err := 4 } := by decide
theorem test_illegal04 : engineAfter (exec (.illegal04 0x04) keyPushed) = { keyPushed.engine with err := 4, errInfo := 0x04 } := by
  decide
theorem test_illegal08 : (engineAfter (exec (.illegal08 0x0F) State.reset)).errInfo = 0x0F := by decide
theorem test_illegal10 : (engineAfter (exec (.illegal10 0x1F) State.reset)).errInfo = 0x1F := by decide
theorem test_illegal20 : (engineAfter (exec (.illegal20 0x3F) State.reset)).errInfo = 0x3F := by decide
theorem test_illegal40 : (engineAfter (exec (.illegal40 0x40) State.reset)).errInfo = 0x40 := by decide
theorem test_illegal80 : status (engineAfter (exec (.illegal80 0xFF) keyPushed)) = 0x04 := by decide
/-- V-CMD-3c's last push: the count stays at 255 and the byte is not stored. -/
theorem test_pushKey_saturates : pushKey 0x11 { Engine.reset with keyCnt := 0xFF } = { Engine.reset with keyCnt := 0xFF } := by decide
/-- P5, step 2: an eighth byte is stored, a ninth is only counted. -/
theorem test_pushBlock_ninth : (pushBlock 0xAB { Engine.reset with blkCnt := 7 }).blkBuf = #v[0, 0, 0, 0, 0, 0, 0, 0xAB] ∧
    pushBlock 0xAB { Engine.reset with blkCnt := 8 } = { Engine.reset with blkCnt := 9 } := by decide
/-- A command byte placed by withFetchWord is the one the next step runs. -/
theorem test_step_runs_fetchWord : engineAfter (step (State.reset.withFetchWord 8 0x81)) =
    { Engine.reset with err := 4, errInfo := 0x81 } := by decide
/-- V-CMD-13, step 8: a write to a reserved offset changes nothing. -/
theorem test_write_reserved : engineAfter (memWrite 0x40 0x02 keyPushed) = keyPushed.engine := by decide

/-! ## Witnesses: the hypotheses of each statement hold together, clause by clause, at boundary values -/

theorem witness_DecodeOfEncodeIsTheCommand : (Instr.illegal04 0x07).wellFormed = true ∧ (Instr.illegal80 0x80).wellFormed = true := by
  decide
theorem witness_LoadkeyInstallsTheSchedule : keyPushed.engine.keyCnt = 10 ∧ State.reset.engine.keyCnt ≠ 10 := by decide
theorem witness_EncryptCommandResult : (blockPushed 0 (Vector.replicate 8 0)).engine.keyValid = true ∧
    (blockPushed 0 (Vector.replicate 8 0)).engine.blkCnt = 8 ∧
    (withEngine { Engine.reset with keyValid := true, blkCnt := 9 }).engine.blkCnt ≠ 8 ∧
    State.reset.engine.keyValid = false := by decide
theorem witness_DecryptCommandResult : (blockPushed 0 (Vector.replicate 8 0xFF)).engine.keyValid = true ∧
    (blockPushed 0 (Vector.replicate 8 0xFF)).engine.blkCnt = 8 ∧
    (withEngine { Engine.reset with keyValid := true, blkCnt := 7 }).engine.blkCnt ≠ 8 ∧
    State.reset.engine.keyValid = false := by decide
theorem witness_IllegalCommandReportsTheByte : (0x00 : Byte) ≠ 0x01 ∧ (0x00 : Byte) ≠ 0x02 ∧ (0x04 : Byte) ≠ 0x03 := by decide
theorem witness_CommandsSucceedExactlyOnValidInput : (∃ t, exec .loadkey keyPushed = .next t) ∧
    (∃ t, exec .encrypt State.reset = .next t) ∧ (∃ t, exec .decrypt State.reset = .next t) := ⟨⟨_, rfl⟩, ⟨_, rfl⟩, ⟨_, rfl⟩⟩
theorem witness_ErrorsArePrecise : AtRest State.reset.engine ∧
    (∃ t, exec .loadkey State.reset = .next t ∧ t.engine.err ≠ 0) ∧ (∃ t, exec .encrypt State.reset = .next t ∧ t.engine.err ≠ 0) ∧
    (∃ t, exec .decrypt (withEngine { Engine.reset with keyValid := true, blkCnt := 7 }) = .next t ∧ t.engine.err ≠ 0) ∧
    (∃ t, exec (decode 0x04) State.reset = .next t) :=
  ⟨⟨rfl, rfl, rfl, rfl⟩, ⟨_, rfl, by decide⟩, ⟨_, rfl, by decide⟩, ⟨_, rfl, by decide⟩, ⟨_, rfl⟩⟩
theorem witness_EqualKeyBytesGiveEqualResults : ∃ s₁ s₂ t₁ t₂ u₁ u₂ : State, s₁ ≠ s₂ ∧ s₁.engine.keyCnt = 10 ∧ s₂.engine.keyCnt = 10 ∧
    s₁.engine.keyBuf = s₂.engine.keyBuf ∧ exec .loadkey s₁ = .next t₁ ∧ exec .loadkey s₂ = .next t₂ ∧
    t₁.engine.blkCnt = 8 ∧ t₂.engine.blkCnt = 8 ∧ t₁.engine.blkBuf = t₂.engine.blkBuf ∧
    exec .encrypt t₁ = .next u₁ ∧ exec .encrypt t₂ = .next u₂ :=
  ⟨withEngine { Engine.reset with keyCnt := 10, blkCnt := 8 }, withEngine { Engine.reset with keyCnt := 10, blkCnt := 8, errInfo := 1 },
    _, _, _, _, by decide, rfl, rfl, rfl, rfl, rfl, by decide +kernel, by decide +kernel, by decide +kernel, rfl, rfl⟩
theorem witness_DecryptCommandUndoesEncryptCommand : ∃ s t u v : State, s.engine.keyValid = true ∧ s.engine.blkCnt = 8 ∧
    exec .encrypt s = .next t ∧ u.engine.rk = s.engine.rk ∧ u.engine.keyValid = true ∧ u.engine.blkCnt = 8 ∧
    u.engine.blkBuf = t.engine.blockOut ∧ exec .decrypt u = .next v :=
  ⟨blockPushed 0 (Vector.replicate 8 0), _,
    blockPushed 0 (engineAfter (exec .encrypt (blockPushed 0 (Vector.replicate 8 0)))).blockOut, _, rfl, rfl, rfl, rfl, rfl, rfl, rfl, rfl⟩
theorem witness_LoadkeyFrame : (∃ t, exec .loadkey State.reset = .next t) ∧ State.reset.engine.keyCnt ≠ 10 ∧
    (0x06 : Byte) ≠ 0x03 ∧ (0x06 : Byte) ≠ 0x04 ∧ (0x06 : Byte) ≠ 0x05 := ⟨⟨_, rfl⟩, by decide⟩
theorem witness_EncryptDecryptFrame : (∃ t, exec .encrypt State.reset = .next t ∧ t.engine.err ≠ 0) ∧ (∃ t, exec .decrypt State.reset = .next t) ∧
    (0x05 : Byte) ≠ 0x03 ∧ (0x05 : Byte) ≠ 0x04 ∧ (0x05 : Byte) ≠ 0x06 ∧ ¬ (0x08 ≤ (0x05 : Byte).toNat ∧ (0x05 : Byte).toNat ≤ 0x0F) :=
  ⟨⟨_, rfl, by decide⟩, ⟨_, rfl⟩, by decide⟩
theorem witness_IllegalCommandFrame : (∃ t, exec (.illegal20 0x20) keyPushed = .next t) ∧ (Instr.illegal20 0x20) ≠ .loadkey ∧
    (Instr.illegal20 0x20) ≠ .encrypt ∧ (Instr.illegal20 0x20) ≠ .decrypt ∧ (0x05 : Byte) ≠ 0x03 ∧ (0x05 : Byte) ≠ 0x04 :=
  ⟨⟨_, rfl⟩, by decide⟩
theorem witness_LoadkeySequenceStepByStep : (0 : Nat) ≤ 31 ∧ (31 : Nat) ≤ 31 ∧ (0 : RoundIndex).toNat ≤ 0 ∧ 0 < (31 : RoundIndex).toNat := by decide
theorem witness_EncryptSequenceStepByStep : (0 : Nat) ≤ 31 ∧ (31 : Nat) ≤ 31 := by decide
theorem witness_DecryptSequenceStepByStep : (1 : Nat) ≤ 31 ∧ (31 : Nat) ≤ 31 := by decide
theorem witness_SubstitutionActsOnEachLane : (15 : Nat) < 16 := by decide
theorem witness_PermutationMapClosedForm : (63 : Nat) < 64 := by decide
theorem witness_PermutationInSourcePositions : (62 : Nat) < 63 := by decide
theorem witness_PermutationMovesEveryBit : (0 : Nat) < 64 ∧ (63 : Nat) < 64 := by decide
theorem witness_KeyRotationBits : (79 : Nat) < 80 := by decide
theorem witness_CounterGoesIntoBits15To19 : (14 < 15 ∨ 20 ≤ 14) ∧ (20 < 15 ∨ 20 ≤ 20) := by decide
theorem witness_KeyScheduleEntries : (30 : RoundIndex).toNat < 31 := by decide
theorem witness_ReadMapOfTheWindow : 0x10 ≤ (0x10 : Byte).toNat ∧ 0x10 ≤ (0xFF : Byte).toNat := by decide
theorem witness_PushKeyStoresAndCounts : (9 : Byte).toNat < 10 ∧ 10 ≤ (10 : Byte).toNat ∧ 10 ≤ (255 : Byte).toNat := by decide
theorem witness_PushBlockStoresAndCounts : (7 : Byte).toNat < 8 ∧ 8 ≤ (8 : Byte).toNat ∧ 8 ≤ (255 : Byte).toNat := by decide
theorem witness_OtherWritesAreIgnored : 0x03 ≤ (0x03 : Byte).toNat ∧ 0x03 ≤ (0x07 : Byte).toNat ∧ 0x10 ≤ (0xFF : Byte).toNat := by decide
theorem witness_KeyBufferHoldsThePushedBytes : Engine.reset.keyCnt = 0 := by decide
theorem witness_BlockBufferHoldsThePushedBytes : Engine.reset.blkCnt = 0 := by decide
/-- The reset machine with the host's accesses to come. -/
def withPending (l : List HostAccess) : State := { State.reset with pending := l }
theorem witness_StepPerformsTheNextAccess : State.reset.pending = [] ∧
    (withPending [wr 0x00 0xFF]).pending = wr 0x00 0xFF :: [] ∧ (withPending [rd 0xFF]).pending = rd 0xFF :: [] ∧
    (withPending [.reset, rd 0x03]).pending = .reset :: [rd 0x03] ∧
    (withPending [.resetDuringCommand 0xFF 33]).pending = .resetDuringCommand 0xFF 33 :: [] ∧
    (0 : Nat) ≠ 1 ∧ (withPending [.read (.window 0xFF) 0]).pending = .read (.window 0xFF) 0 :: [] ∧
    (2 : Nat) ≠ 1 ∧ (withPending [.write (.window 0x02) 2 0x01]).pending = .write (.window 0x02) 2 0x01 :: [] ∧
    (withPending [.read (.elsewhere 0) 1]).pending = .read (.elsewhere 0) 1 :: [] ∧
    (withPending [.write (.elsewhere 0) 4 0x01]).pending = .write (.elsewhere 0) 4 0x01 :: [] := by decide
theorem witness_StepRunsTheDecodedCommand : ({ State.reset with pending := [wr 0x02 0x00] } : State).pending = wr 0x02 0x00 :: [] := by
  decide
theorem witness_OtherSizesAreRefused : (0 : Nat) ≠ 1 ∧ (2 : Nat) ≠ 1 := by decide
theorem witness_WindowStandsAtEngineBase : targetOf (Config.engineBase + (0xFF : Byte).toNat) = .window 0xFF ∧
    Config.engineBase + 256 ≤ Config.engineBase + 256 := by
  refine ⟨?_, Nat.le_refl _⟩
  rw [targetOf, if_pos (by simp)]; simp
theorem witness_EngineAccessesNeverStop : ∀ a rest, ({ State.reset with pending := [rd 0x10] } : State).pending = a :: rest →
    IsEngineAccess a := by
  intro a rest h; injection h with h1 _; subst h1; exact rfl
theorem witness_ResetAbandonsARunningCommand : ({ keyPushed with pending := [.resetDuringCommand 0x01 31] } : State).pending =
    .resetDuringCommand 0x01 31 :: [] := by decide
theorem witness_StepKeepsKeyConsistent : KeyConsistent State.reset.engine ∧ KeyConsistent (blockPushed 0 (Vector.replicate 8 0)).engine ∧
    ∃ t, step State.reset = .next t :=
  ⟨⟨fun h => (by cases h), fun _ => rfl⟩, ⟨fun _ => ⟨0, rfl⟩, fun h => (by cases h)⟩, ⟨_, rfl⟩⟩
theorem witness_StepKeepsOutcomeConsistent : OutcomeConsistent State.reset.engine ∧ ∃ t, step (State.reset.withFetchWord 8 0x01) = .next t :=
  ⟨.inl ⟨rfl, rfl⟩, ⟨_, rfl⟩⟩
theorem witness_StepKeepsAtRest : AtRest State.reset.engine ∧ ∃ t, step (State.reset.withFetchWord 8 0x02) = .next t :=
  ⟨⟨rfl, rfl, rfl, rfl⟩, ⟨_, rfl⟩⟩
/-- LOADKEY writes the instance, and reset clears it. -/
theorem witness_OnlyLoadkeyAndResetWriteTheInstance :
    (∃ t, step { keyPushed with pending := [wr 0x02 0x01] } = .next t ∧ t.engine.keyValid ≠ keyPushed.engine.keyValid) ∧
    (∃ t, step { withEngine { Engine.reset with keyValid := true } with pending := [.reset] } = .next t ∧ t.engine.keyValid = false) :=
  ⟨⟨_, rfl, by decide +kernel⟩, ⟨_, rfl, by decide⟩⟩
theorem witness_OnlyCommandsAndResetWriteErr :
    ∃ t, step (State.reset.withFetchWord 8 0x00) = .next t ∧ t.engine.err ≠ State.reset.engine.err := ⟨_, rfl, by decide⟩
theorem witness_OnlySuccessfulCryptAndResetWriteBlockOut :
    ∃ s t : State, step s = .next t ∧ t.engine.blockOut ≠ s.engine.blockOut :=
  ⟨{ withEngine { Engine.reset with blockOut := Vector.replicate 8 1 } with pending := [.reset] }, _, rfl, by decide⟩
theorem witness_KeyMaterialIsNeverObserved : ∃ s s' : State, s ≠ s' ∧ SameToHost s.engine s'.engine ∧ s.pending = s'.pending ∧
    s.observed = s'.observed ∧ (∀ a rest, s.pending = a :: rest → ¬ AcceptedCrypt a s.engine) ∧ ∃ t, step s = .next t :=
  ⟨{ keyPushed with pending := [wr 0x02 0x01] }, { withEngine { Engine.reset with keyCnt := 10 } with pending := [wr 0x02 0x01] },
    by decide, ⟨rfl, rfl, rfl, rfl, rfl, rfl⟩, rfl, rfl,
    fun a rest h g => absurd g.2.1 (by decide), ⟨_, rfl⟩⟩
theorem witness_TimingIsDataIndependent : ∃ e f : Engine, e ≠ f ∧ e.keyValid = f.keyValid ∧ e.keyCnt = f.keyCnt ∧ e.blkCnt = f.blkCnt :=
  ⟨keyPushed.engine, { Engine.reset with keyCnt := 10 }, by decide, rfl, rfl, rfl⟩
/-- Each outcome of each command: an error, and success of LOADKEY, ENCRYPT and DECRYPT; the offsets beside CMD. -/
theorem witness_HoldOfEveryAccess : (0x01 : Byte) ≠ 0x02 ∧ (0x03 : Byte) ≠ 0x02 ∧
    (∃ t, exec (decode 0x04) State.reset = .next t ∧ t.engine.err ≠ 0) ∧
    (∃ t, exec (decode 0x01) keyPushed = .next t ∧ t.engine.err = 0) ∧
    (∃ t, exec (decode 0x02) (blockPushed 0 (Vector.replicate 8 0)) = .next t ∧ t.engine.err = 0) ∧
    (∃ t, exec (decode 0x03) (blockPushed 0 (Vector.replicate 8 0)) = .next t ∧ t.engine.err = 0) :=
  ⟨by decide, by decide, ⟨_, rfl, by decide⟩, ⟨_, rfl, by decide +kernel⟩, ⟨_, rfl, by decide +kernel⟩, ⟨_, rfl, by decide +kernel⟩⟩
theorem witness_InstanceSurvivesEveryOtherAccess :
    (∀ a ∈ ({ State.reset with pending := [wr 0x02 0x02, rd 0x03] } : State).pending, KeepsInstance a) ∧
    ∃ t, runSteps 2 { State.reset with pending := [wr 0x02 0x02, rd 0x03] } = .next t := by
  refine ⟨?_, ⟨_, rfl⟩⟩
  intro a h
  simp only [List.mem_cons, List.not_mem_nil, or_false] at h
  rcases h with rfl | rfl
  · exact ⟨by decide, id⟩
  · exact ⟨by decide, id⟩
theorem witness_BootSequenceInstallsTheKey : ∃ s : State, s.engine.keyCnt = 0 ∧
    s.pending = loadkeyAccesses (Vector.replicate 10 0xFF) ++ [rd 0x03] :=
  ⟨{ State.reset with pending := loadkeyAccesses (Vector.replicate 10 0xFF) ++ [rd 0x03] }, rfl, rfl⟩
theorem witness_PerBlockSequenceReadsTheResult : ∃ s s' : State, s.engine.keyValid = true ∧ s.engine.blkCnt = 0 ∧
    s.pending = encryptAccesses (Vector.replicate 8 0xFF) ++ readoutAccesses ++ [] ∧ s'.engine.keyValid = true ∧ s'.engine.blkCnt = 0 ∧
    s'.pending = decryptAccesses (Vector.replicate 8 0x00) ++ readoutAccesses ++ [] :=
  ⟨{ withEngine { Engine.reset with keyValid := true } with
      pending := encryptAccesses (Vector.replicate 8 0xFF) ++ readoutAccesses ++ [] },
    { withEngine { Engine.reset with keyValid := true } with
      pending := decryptAccesses (Vector.replicate 8 0x00) ++ readoutAccesses ++ [] }, rfl, rfl, rfl, rfl, rfl, rfl⟩

end Sys2Proof.Tests
end

section
/-!
PROOFS. The family of spec/00_scope.md: the permutation in the source's bit positions (R9, R143), the byte order of keys and
blocks (R10, R60, R61), and the host's next access (R13, R67).
-/

namespace Sys2Proof.Machine

/-! ## The permutation (R143 to R146) -/

/-- P in closed form: position 4a + b goes to 16b + a. -/
theorem permIndex_eq {j : Nat} (h : j < 64) : permIndex j = 16 * (j % 4) + j / 4 := by
  unfold permIndex
  split <;> omega

theorem permIndex_inj {i j : Nat} (hi : i < 64) (hj : j < 64) (h : permIndex i = permIndex j) : i = j := by
  rw [permIndex_eq hi, permIndex_eq hj] at h
  omega

/-- R146: the permutation layer moves bit j to P(j). -/
theorem pLayer_getLsbD_permIndex (s : Block) {j : Nat} (h : j < 64) :
    (pLayer s).getLsbD (permIndex j) = s.getLsbD j := by
  rw [Bool.eq_iff_iff, pLayer, permuteBits_getLsbD s 64 _ le_rfl]
  constructor
  · rintro ⟨i, hi, hij, hbit⟩
    exact permIndex_inj hi h hij ▸ hbit
  · exact fun hbit => ⟨j, h, rfl, hbit⟩

/-- P commutes with the reversal of the bit numbering (R144), so the source's positions give the same map. -/
theorem permIndex_reverse {p : Nat} (h : p < 64) : permIndex (63 - p) = 63 - permIndex p := by
  rw [permIndex_eq (j := 63 - p) (by omega), permIndex_eq h]
  omega

theorem pLayer_getMsbD_permIndex (s : Block) {p : Nat} (h : p < 64) :
    (pLayer s).getMsbD (permIndex p) = s.getMsbD p := by
  have hmove := pLayer_getLsbD_permIndex s (j := 63 - p) (by omega)
  rw [permIndex_reverse h] at hmove
  simpa [BitVec.getMsbD_eq_getLsbD, h, permIndex_lt h] using hmove

/-- Settles O22: the LSB-0 law of the layer, read through the reversal of the bit numbering. -/
theorem permutationInSourcePositions : Obligations.PermutationInSourcePositions := by
  intro s
  constructor
  · intro p hp
    have hperm : permIndex p = 16 * p % 63 := if_neg (by omega)
    rw [← hperm, pLayer_getMsbD_permIndex s (by omega)]
  · exact pLayer_getMsbD_permIndex s (p := 63) (by omega)

/-! ## The byte order (R10, R60, R61) -/

theorem beNat_cons (b : Byte) (bs : List Byte) : beNat (b :: bs) = b.toNat * 256 ^ bs.length + beNat bs := by
  simpa [beNat] using beNat_foldl bs b.toNat

theorem beNat_lt (bs : List Byte) : beNat bs < 256 ^ bs.length := by
  induction bs with
  | nil => simp [beNat]
  | cons b bs ih =>
    have hb : b.toNat + 1 ≤ 256 := b.isLt
    calc beNat (b :: bs) = b.toNat * 256 ^ bs.length + beNat bs := beNat_cons b bs
      _ < (b.toNat + 1) * 256 ^ bs.length := by rw [Nat.add_one_mul]; exact Nat.add_lt_add_left ih _
      _ ≤ 256 * 256 ^ bs.length := Nat.mul_le_mul_right _ hb
      _ = 256 ^ (b :: bs).length := by rw [List.length_cons, pow_succ, Nat.mul_comm]

/-- Settles O31: the first byte has the highest weight, and the sum over the others is that of the tail. -/
theorem bigEndianIsTheWeightedSum : Obligations.BigEndianIsTheWeightedSum := by
  intro bs
  induction bs with
  | nil => rfl
  | cons b bs ih =>
    have hpow : 256 ^ bs.length = 2 ^ (8 * bs.length) := (pow_mul 2 8 bs.length).symm
    have hweight : ∀ k, bs.length - 1 - k = bs.length - (k + 1) := fun k => by omega
    rw [beNat_cons, ih, List.length_cons, List.range_succ_eq_map]
    simp only [List.map_cons, List.map_map, List.sum_cons, Function.comp_def, List.getD_cons_zero, List.getD_cons_succ,
      Nat.add_sub_cancel, Nat.sub_zero, hweight, hpow]

/-- Digit k of be(B) in base 256, counted from the most significant end, is B[k] (R10). -/
theorem beNat_digit (bs : List Byte) (k : Nat) (hk : k < bs.length) :
    beNat bs / 256 ^ (bs.length - 1 - k) % 256 = bs[k].toNat := by
  induction bs generalizing k with
  | nil => simp at hk
  | cons b bs ih =>
    rw [beNat_cons]
    cases k with
    | zero =>
      have htail : beNat bs / 256 ^ bs.length = 0 := Nat.div_eq_of_lt (beNat_lt bs)
      have hb : b.toNat % 256 = b.toNat := Nat.mod_eq_of_lt b.isLt
      simp [Nat.mul_add_div, Nat.mul_comm b.toNat, htail, hb]
    | succ k =>
      have hk' : k < bs.length := by simpa using hk
      obtain ⟨m, hm⟩ : ∃ m, bs.length = m + (k + 1) := ⟨bs.length - (k + 1), by omega⟩
      have hlead : b.toNat * 256 ^ bs.length = 256 ^ m * (256 * (256 ^ k * b.toNat)) := by rw [hm]; ring
      have hdigit := ih k hk'
      rw [show bs.length - 1 - k = m by omega] at hdigit
      rw [List.length_cons, show bs.length + 1 - 1 - (k + 1) = m by omega, hlead, Nat.mul_add_div (by positivity),
        Nat.mul_add_mod, hdigit, List.getElem_cons_succ]

/-- Byte k of be_{8n}(B) is B[k], the first byte in the top bits (R10). -/
theorem extractLsb'_ofNat_beNat (bs : List Byte) {w : Nat} (hw : w = 8 * bs.length) (k : Nat) (hk : k < bs.length) :
    (BitVec.ofNat w (beNat bs)).extractLsb' (8 * (bs.length - 1 - k)) 8 = bs[k] := by
  have hlt : beNat bs < 2 ^ w := by rw [hw, pow_mul]; exact beNat_lt bs
  apply BitVec.eq_of_toNat_eq
  rw [BitVec.extractLsb'_toNat, BitVec.toNat_ofNat, Nat.mod_eq_of_lt hlt, Nat.shiftRight_eq_div_pow, pow_mul]
  exact beNat_digit bs k hk

/-- Settles O32: the ten-byte case of the byte order. -/
theorem keyBytesMostSignificantFirst : Obligations.KeyBytesMostSignificantFirst := by
  intro b k
  simpa [be80] using extractLsb'_ofNat_beNat b.toList (w := 80) (by simp) k (by simp)

theorem be64_extractLsb' (b : Vector Byte 8) (k : Fin 8) : (be64 b).extractLsb' (8 * (7 - k.val)) 8 = b[k] := by
  simpa [be64] using extractLsb'_ofNat_beNat b.toList (w := 64) (by simp) k (by simp)

theorem bytesBe8_getElem (v : Block) (k : Fin 8) : (bytesBe8 v)[k] = v.extractLsb' (8 * (7 - k.val)) 8 := by
  simp [bytesBe8]

/-- The eight bytes of a block determine it. -/
theorem block_ext_bytes {u v : Block}
    (h : ∀ k : Fin 8, u.extractLsb' (8 * (7 - k.val)) 8 = v.extractLsb' (8 * (7 - k.val)) 8) : u = v := by
  apply BitVec.eq_of_getLsbD_eq
  intro i hi
  have hbit := congrArg (·.getLsbD (i % 8)) (h ⟨7 - i / 8, by omega⟩)
  have hpos : 8 * (7 - (7 - i / 8)) + i % 8 = i := by omega
  have hmod : i % 8 < 8 := by omega
  simpa [hpos, hmod] using hbit

theorem be64_bytesBe8 (v : Block) : be64 (bytesBe8 v) = v :=
  block_ext_bytes fun k => (be64_extractLsb' _ k).trans (bytesBe8_getElem v k)

theorem bytesBe8_be64 (b : Vector Byte 8) : bytesBe8 (be64 b) = b :=
  Vector.ext fun k hk => (bytesBe8_getElem _ ⟨k, hk⟩).trans (be64_extractLsb' b ⟨k, hk⟩)

/-- Settles O33: the byte law of each conversion, and the two inverse laws that follow from them. -/
theorem blockBytesMostSignificantFirst : Obligations.BlockBytesMostSignificantFirst :=
  ⟨be64_extractLsb', bytesBe8_getElem, be64_bytesBe8, bytesBe8_be64⟩

/-! ## The host's next access (R13, R51, R63, R67, R230 to R232) -/

theorem step_of_pending_nil {s : State} (h : s.pending = []) : step s = .next s := by
  rw [step, serveNext, h]

theorem step_of_pending_cons {s : State} {a : HostAccess} {rest : List HostAccess} (h : s.pending = a :: rest) :
    step s = serve a { s with pending := rest } := by
  rw [step, serveNext, h]

@[simp] theorem serve_wr (off v : Byte) (s : State) : serve (Safety.wr off v) s = memWrite off v s := rfl

@[simp] theorem serve_rd (off : Byte) (s : State) : serve (Safety.rd off) s = .next (s.observe (memRead off s.engine)) := rfl

@[simp] theorem serve_reset (s : State) : serve .reset s = .next (s.withEngine Engine.reset) := rfl

@[simp] theorem serve_resetDuringCommand (c : Byte) (k : Nat) (s : State) :
    serve (.resetDuringCommand c k) s = .next (s.withEngine Engine.reset) := rfl

/-- R63: a window access of another size is refused, whatever it would have done. -/
theorem busAccess_window_of_ne {size : Nat} (h : size ≠ 1) (off : Byte)
    (act : Byte → Host.Outcome State Fault Refusal) :
    busAccess (.window off) size act = .refused (.unsupportedWidth size) := if_neg h

/-- R51: an access outside the window is refused, whatever its size. -/
@[simp] theorem busAccess_elsewhere (addr size : Nat) (act : Byte → Host.Outcome State Fault Refusal) :
    busAccess (.elsewhere addr) size act = .refused (.outsideWindow addr) := rfl

/-- Settles O40: a step serves the next access, and `serve` answers each form of access as the statement says. -/
theorem stepPerformsTheNextAccess : Obligations.StepPerformsTheNextAccess := by
  intro s rest off v size addr k
  refine ⟨step_of_pending_nil, fun a => step_of_pending_cons, ?write, ?read, ?reset, ?heldReset, ?otherSize, ?outside⟩
  case write => intro h; rw [step_of_pending_cons h, serve_wr]
  case read => intro h; rw [step_of_pending_cons h, serve_rd]; rfl
  case reset => intro h; rw [step_of_pending_cons h, serve_reset]; rfl
  case heldReset => intro h; rw [step_of_pending_cons h, serve_resetDuringCommand]; rfl
  case otherSize =>
    rintro hsize (h | h) <;> rw [step_of_pending_cons h, serve, busAccess_window_of_ne hsize]
  case outside =>
    rintro (h | h) <;> rw [step_of_pending_cons h, serve, busAccess_elsewhere]

end Sys2Proof.Machine
end

section
/-!
PROOFS. The family of spec/10_state.md: what a command does to the engine, the invariants of every step (R32 to R39, R201 to
R206), who writes RK, KEYVALID and BLOCK_OUT (R22, R23, R28), and what the push buffers hold (R40).
-/

namespace Sys2Proof.Machine

open Sys2Proof.Safety

/-! ## The internal sequences, run to their end (R181 to R183) -/

theorem tick_of_keysched {e : Engine} (hp : e.phase = .keysched) (hr : e.rnd ≠ 31) : tick e = keyScheduleStep e := by
  rw [tick, hp]; exact if_neg hr

theorem tick_of_enc {e : Engine} (hp : e.phase = .enc) (hr : e.rnd ≠ 31) : tick e = encryptStep e := by
  rw [tick, hp]; exact if_neg hr

theorem tick_of_dec {e : Engine} (hp : e.phase = .dec) (hr : e.rnd ≠ 0) : tick e = decryptStep e := by
  rw [tick, hp]; exact if_neg hr

theorem tick_of_keysched_last {e : Engine} (hp : e.phase = .keysched) (hr : e.rnd = 31) :
    tick e = finish { e with keyValid := true } := by
  rw [tick, hp]; exact if_pos hr

theorem tick_of_enc_last {e : Engine} (hp : e.phase = .enc) (hr : e.rnd = 31) :
    tick e = finish (emitBlock (addRoundKey e.st (roundKey e.rk 31)) e) := by
  rw [tick, hp]; exact if_pos hr

theorem tick_of_dec_last {e : Engine} (hp : e.phase = .dec) (hr : e.rnd = 0) :
    tick e = finish (emitBlock (addRoundKey e.st (roundKey e.rk 0)) e) := by
  rw [tick, hp]; exact if_pos hr

theorem roundIndex_ofNat_succ (k : Nat) : BitVec.ofNat 5 k + 1 = BitVec.ofNat 5 (k + 1) := by
  rw [BitVec.ofNat_add]; rfl

theorem roundIndex_ofNat_ne {k m : Nat} (hk : k < 32) (hm : m < 32) (h : k ≠ m) : BitVec.ofNat 5 k ≠ BitVec.ofNat 5 m := by
  intro heq
  have := congrArg BitVec.toNat heq
  simp only [BitVec.toNat_ofNat] at this
  omega

/-- The round-key file after `k` passes of R181's loop, over what it held before. -/
def writeSchedule (rk : RoundKeys) (K : KeyReg) : Nat → RoundKeys
  | 0 => setRoundKey rk 0 (roundKeyOf K)
  | k + 1 => setRoundKey (writeSchedule rk K k) (BitVec.ofNat 5 (k + 1)) (roundKeyOf (keyRegister K (k + 1)))

theorem roundKey_writeSchedule (rk : RoundKeys) (K : KeyReg) (j : RoundIndex) {k : Nat} (hk : k ≤ 31) :
    roundKey (writeSchedule rk K k) j = if j.toNat ≤ k then roundKeyOf (keyRegister K j.toNat) else roundKey rk j := by
  induction k with
  | zero =>
    rw [writeSchedule, roundKey_setRoundKey]
    by_cases h : j = 0
    · subst h; rfl
    · have hpos : ¬ j.toNat ≤ 0 := fun h0 => h (BitVec.eq_of_toNat_eq (Nat.le_zero.mp h0))
      rw [if_neg (Ne.symm h), if_neg hpos]
  | succ k ih =>
    rw [writeSchedule, roundKey_setRoundKey, ih (by omega)]
    have hnat : (BitVec.ofNat 5 (k + 1)).toNat = k + 1 := Nat.mod_eq_of_lt (by omega)
    by_cases h : BitVec.ofNat 5 (k + 1) = j
    · subst h; simp [hnat]
    · have hne : j.toNat ≠ k + 1 := fun h' => h (BitVec.eq_of_toNat_eq (hnat.trans h'.symm))
      have hle : j.toNat ≤ k + 1 ↔ j.toNat ≤ k := by omega
      simp only [h, hle, if_false]

/-- The whole loop writes all 32 entries, so nothing of the earlier file is left (R127). -/
theorem writeSchedule_all (rk : RoundKeys) (K : KeyReg) : writeSchedule rk K 31 = keySchedule K :=
  roundKeys_ext fun i => by
    rw [roundKey_writeSchedule rk K i le_rfl, roundKey_keySchedule, if_pos (Nat.le_of_lt_succ i.isLt)]

/-- R181 after `k` passes of the loop. -/
theorem runTicks_startKeySchedule (e : Engine) {k : Nat} (hk : k ≤ 31) :
    runTicks k (startKeySchedule e) = { e with
      phase := .keysched, keyValid := false, rnd := BitVec.ofNat 5 k, ksr := keyRegister (be80 e.keyBuf) k,
      rk := writeSchedule e.rk (be80 e.keyBuf) k } := by
  induction k with
  | zero => rfl
  | succ k ih =>
    rw [runTicks_succ, ih (by omega), tick_of_keysched rfl (roundIndex_ofNat_ne (m := 31) (by omega) (by omega) (by omega)),
      keyScheduleStep]
    simp only [roundIndex_ofNat_succ]
    rfl

/-- R182 after `k` round steps. -/
theorem runTicks_startEncrypt (e : Engine) {k : Nat} (hk : k ≤ 31) :
    runTicks k (startEncrypt e) =
      { e with phase := .enc, rnd := BitVec.ofNat 5 k, st := encryptRounds e.rk (be64 e.blkBuf) k } := by
  induction k with
  | zero => rfl
  | succ k ih =>
    rw [runTicks_succ, ih (by omega), tick_of_enc rfl (roundIndex_ofNat_ne (m := 31) (by omega) (by omega) (by omega)),
      encryptStep]
    simp only [roundIndex_ofNat_succ]
    rfl

/-- R183 after `k` round steps. -/
theorem runTicks_startDecrypt (e : Engine) {k : Nat} (hk : k ≤ 31) :
    runTicks k (startDecrypt e) =
      { e with phase := .dec, rnd := BitVec.ofNat 5 (31 - k), st := decryptRounds e.rk (be64 e.blkBuf) k } := by
  induction k with
  | zero => rfl
  | succ k ih =>
    have hpred : BitVec.ofNat 5 (31 - k) - 1 = BitVec.ofNat 5 (31 - (k + 1)) := by
      rw [← show 31 - (k + 1) + 1 = 31 - k by omega, ← roundIndex_ofNat_succ, BitVec.add_sub_cancel]
    rw [runTicks_succ, ih (by omega), tick_of_dec rfl (roundIndex_ofNat_ne (m := 0) (by omega) (by omega) (by omega)),
      decryptStep]
    simp only [hpred]
    rfl

/-- R181: the whole sequence installs the schedule of the key bytes. -/
theorem runTicks_startKeySchedule_whole (e : Engine) :
    runTicks 32 (startKeySchedule e) = finish { e with rk := keySchedule (be80 e.keyBuf), keyValid := true } := by
  rw [runTicks_succ 31, runTicks_startKeySchedule e le_rfl, tick_of_keysched_last rfl rfl, writeSchedule_all]
  rfl

/-- R182: the whole sequence puts Encrypt of the block into BLOCK_OUT. -/
theorem runTicks_startEncrypt_whole (e : Engine) :
    runTicks 32 (startEncrypt e) = finish (emitBlock (encryptBlock e.rk (be64 e.blkBuf)) e) := by
  rw [runTicks_succ 31, runTicks_startEncrypt e le_rfl, tick_of_enc_last rfl rfl]
  rfl

/-- R183: the whole sequence puts Decrypt of the block into BLOCK_OUT. -/
theorem runTicks_startDecrypt_whole (e : Engine) :
    runTicks 32 (startDecrypt e) = finish (emitBlock (decryptBlock e.rk (be64 e.blkBuf)) e) := by
  rw [runTicks_succ 31, runTicks_startDecrypt e le_rfl, tick_of_dec_last rfl rfl]
  rfl

/-! ## What a command does (R174 to R178) -/

/-- Every way the command of byte `c` can take engine `e` to its end: the three that succeed, with the block that is output, and
the four that raise. -/
inductive CommandEffect (c : Byte) (e : Engine) : Engine → Prop
  | keyLoaded (hc : c = 1) (hcnt : e.keyCnt = 10) :
      CommandEffect c e (finish { clearKeyCnt e with rk := keySchedule (be80 e.keyBuf), keyValid := true })
  | keySize (hc : c = 1) (hcnt : e.keyCnt ≠ 10) : CommandEffect c e (raise .keySize e.keyCnt (clearKeyCnt e))
  | blockOut (v : Block)
      (hc : c = 2 ∧ v = encryptBlock e.rk (be64 e.blkBuf) ∨ c = 3 ∧ v = decryptBlock e.rk (be64 e.blkBuf))
      (hkey : e.keyValid = true) (hcnt : e.blkCnt = 8) : CommandEffect c e (finish (emitBlock v (clearBlkCnt e)))
  | blockSize (hc : c = 2 ∨ c = 3) (hkey : e.keyValid = true) (hcnt : e.blkCnt ≠ 8) :
      CommandEffect c e (raise .blockSize e.blkCnt (clearBlkCnt e))
  | noKey (hc : c = 2 ∨ c = 3) (hkey : e.keyValid = false) : CommandEffect c e (raise .noKey 0 (clearBlkCnt e))
  | illegal (h1 : c ≠ 1) (h2 : c ≠ 2) (h3 : c ≠ 3) : CommandEffect c e (raise .illegalCmd c e)

/-- R177: every byte but 0x01, 0x02 and 0x03 begins ILLEGAL of itself. -/
theorem beginCommand_decode_of_illegal {c : Byte} (h1 : c ≠ 1) (h2 : c ≠ 2) (h3 : c ≠ 3) (e : Engine) :
    beginCommand (decode c) e = beginIllegal c e := by
  have hmask : c &&& 0xFF = c := BitVec.and_allOnes
  simp only [decode, hmask, h1, h2, h3, if_false]
  split_ifs with h0
  · subst h0; rfl
  all_goals rfl

theorem loadkey_effect (e : Engine) : CommandEffect 1 e (runTicks 32 (beginLoadkey e)) := by
  obtain ⟨hcnt, hbegin⟩ | ⟨hcnt, hbegin⟩ := beginLoadkey_cases e
  · rw [hbegin, runTicks_startKeySchedule_whole]; exact .keyLoaded rfl hcnt
  · rw [hbegin, runTicks_raise]; exact .keySize rfl hcnt

/-- ENCRYPT and DECRYPT, whose sequences differ in the block they compute and in nothing else. -/
theorem crypt_effect {c : Byte} {start : Engine → Engine} {cipher : RoundKeys → Block → Block}
    (hstart : ∀ e, runTicks 32 (start e) = finish (emitBlock (cipher e.rk (be64 e.blkBuf)) e))
    (hc : c = 2 ∧ cipher = encryptBlock ∨ c = 3 ∧ cipher = decryptBlock) (e : Engine) :
    CommandEffect c e (runTicks 32 (beginCrypt start e)) := by
  have hc' : c = 2 ∨ c = 3 := hc.imp And.left And.left
  obtain ⟨hkey, hcnt, hbegin⟩ | ⟨hkey, hcnt, hbegin⟩ | ⟨hkey, hbegin⟩ := beginCrypt_cases start e
  · rw [hbegin, hstart]
    exact .blockOut _ (hc.imp (And.imp_right (congrFun₂ · _ _)) (And.imp_right (congrFun₂ · _ _))) hkey hcnt
  · rw [hbegin, runTicks_raise]; exact .blockSize hc' hkey hcnt
  · rw [hbegin, runTicks_raise]; exact .noKey hc' hkey

/-- What the command of a byte does, run to its end. -/
theorem command_effect (c : Byte) (e : Engine) : CommandEffect c e (runTicks 32 (beginCommand (decode c) e)) := by
  by_cases h1 : c = 1
  · subst h1; exact loadkey_effect e
  by_cases h2 : c = 2
  · subst h2; exact crypt_effect runTicks_startEncrypt_whole (.inl ⟨rfl, rfl⟩) e
  by_cases h3 : c = 3
  · subst h3; exact crypt_effect runTicks_startDecrypt_whole (.inr ⟨rfl, rfl⟩) e
  · rw [beginCommand_decode_of_illegal h1 h2 h3, beginIllegal, runTicks_raise]; exact .illegal h1 h2 h3

/-- A predicate of the engine that holds at reset and that pushes and commands keep is kept by every step. -/
theorem step_preserves {P : Engine → Prop} (hreset : P Engine.reset) (hkey : ∀ v e, P e → P (pushKey v e))
    (hblock : ∀ v e, P e → P (pushBlock v e)) (hcommand : ∀ c e f, CommandEffect c e f → P e → P f)
    {s t : State} (hs : P s.engine) (h : step s = .next t) : P t.engine := by
  obtain hsame | ⟨a, rest, -, ⟨v, -, ht⟩ | ⟨v, -, ht⟩ | ⟨c, -, ht⟩ | ⟨-, ht⟩⟩ := step_engine_cases h
  · rw [hsame]; exact hs
  · rw [ht]; exact hkey v _ hs
  · rw [ht]; exact hblock v _ hs
  · rw [ht]; exact hcommand c _ _ (command_effect c _) hs
  · rw [ht]; exact hreset

/-! ## RK and KEYVALID (R22, R23, R38, R39, R179) -/

theorem reset_keyConsistent : KeyConsistent Engine.reset := ⟨fun h => absurd h Bool.false_ne_true, fun _ => rfl⟩

/-- A command writes RK and KEYVALID only where LOADKEY succeeds. -/
theorem CommandEffect.rk_keyValid_cases {c : Byte} {e f : Engine} (h : CommandEffect c e f) :
    (f.rk = e.rk ∧ f.keyValid = e.keyValid) ∨
    (c = 1 ∧ e.keyCnt = 10 ∧ f.rk = keySchedule (be80 e.keyBuf) ∧ f.keyValid = true) := by
  cases h with
  | keyLoaded hc hcnt => exact .inr ⟨hc, hcnt, rfl, rfl⟩
  | keySize | blockOut | blockSize | noKey | illegal => exact .inl ⟨rfl, rfl⟩

theorem CommandEffect.keyConsistent {c : Byte} {e f : Engine} (h : CommandEffect c e f) (he : KeyConsistent e) :
    KeyConsistent f := by
  obtain ⟨hrk, hvalid⟩ | ⟨-, -, hrk, hvalid⟩ := h.rk_keyValid_cases
  · rwa [KeyConsistent, hrk, hvalid]
  · exact ⟨fun _ => ⟨_, hrk⟩, fun hfalse => by simp [hvalid] at hfalse⟩

/-- Settles O48: no push touches RK or KEYVALID, and of the commands only an accepted LOADKEY does, which writes a
whole schedule. -/
theorem stepKeepsKeyConsistent : Obligations.StepKeepsKeyConsistent := fun _ _ =>
  step_preserves reset_keyConsistent (fun _ _ he => he) (fun _ _ he => he) fun _ _ _ => CommandEffect.keyConsistent

/-- What a step does to RK and KEYVALID: nothing, or an accepted LOADKEY sets KEYVALID, or reset clears them. -/
theorem step_rk_keyValid_cases {s t : State} (h : step s = .next t) :
    (t.engine.rk = s.engine.rk ∧ t.engine.keyValid = s.engine.keyValid) ∨
    ∃ a rest, s.pending = a :: rest ∧ ((AcceptedLoadkey a s.engine ∧ t.engine.keyValid = true) ∨ IsReset a) := by
  obtain hsame | ⟨a, rest, hp, ⟨v, -, ht⟩ | ⟨v, -, ht⟩ | ⟨c, rfl, ht⟩ | ⟨hreset, -⟩⟩ := step_engine_cases h
  · rw [hsame]; exact .inl ⟨rfl, rfl⟩
  · rw [ht]; exact .inl ⟨rfl, rfl⟩
  · rw [ht]; exact .inl ⟨rfl, rfl⟩
  · rw [ht]
    obtain hsame | ⟨rfl, hcnt, -, hvalid⟩ := (command_effect c s.engine).rk_keyValid_cases
    · exact .inl hsame
    · exact .inr ⟨_, rest, hp, .inl ⟨⟨rfl, hcnt⟩, hvalid⟩⟩
  · exact .inr ⟨a, rest, hp, .inr hreset⟩

/-- Settles O52: the three cases of what a step does to RK and KEYVALID. -/
theorem onlyLoadkeyAndResetWriteTheInstance : Obligations.OnlyLoadkeyAndResetWriteTheInstance := by
  intro s t h
  obtain ⟨hrk, hvalid⟩ | ⟨a, rest, hp, ⟨hload, hvalid⟩ | hreset⟩ := step_rk_keyValid_cases h
  · exact ⟨fun hchange => (hchange.elim (· hrk) (· hvalid)).elim, fun hset hclear => by simp [hvalid, hset] at hclear⟩
  · exact ⟨fun _ => ⟨a, rest, hp, .inl hload⟩, fun _ hclear => by simp [hvalid] at hclear⟩
  · exact ⟨fun _ => ⟨a, rest, hp, .inr hreset⟩, fun _ _ => ⟨a, rest, hp, hreset⟩⟩

theorem step_rk_keyValid_of_keepsInstance {s t : State} (hkeep : ∀ a ∈ s.pending, KeepsInstance a) (h : step s = .next t) :
    t.engine.rk = s.engine.rk ∧ t.engine.keyValid = s.engine.keyValid := by
  obtain hsame | ⟨a, rest, hp, hwrite⟩ := step_rk_keyValid_cases h
  · exact hsame
  · obtain ⟨hnoLoad, hnoReset⟩ := hkeep a (by rw [hp]; exact List.mem_cons_self)
    obtain ⟨⟨hload, -⟩, -⟩ | hreset := hwrite
    · exact absurd hload hnoLoad
    · exact absurd hreset hnoReset

/-- Settles O57, by induction on the number of steps: a step keeps RK and KEYVALID, and what it leaves pending was pending. -/
theorem instanceSurvivesEveryOtherAccess : Obligations.InstanceSurvivesEveryOtherAccess := by
  intro n
  induction n with
  | zero =>
    intro s t _ h
    rw [next_inj h]
    exact ⟨rfl, rfl⟩
  | succ n ih =>
    intro s t hkeep h
    obtain ⟨u, hstep, hrun⟩ := runSteps_next_inv h
    obtain ⟨hrk, hvalid⟩ := step_rk_keyValid_of_keepsInstance hkeep hstep
    have hkeep' : ∀ a ∈ u.pending, KeepsInstance a := fun a ha =>
      hkeep a (List.mem_of_mem_tail (step_pending hstep ▸ ha))
    obtain ⟨hrk', hvalid'⟩ := ih u t hkeep' hrun
    exact ⟨hrk'.trans hrk, hvalid'.trans hvalid⟩

/-! ## ERR and ERR_INFO (R29, R30, R201 to R206) -/

theorem reset_outcomeConsistent : OutcomeConsistent Engine.reset := .inl ⟨rfl, rfl⟩

/-- The outcome a command leaves is consistent, whatever stood in ERR before: each way a command ends is one row of R201. -/
theorem CommandEffect.outcomeConsistent {c : Byte} {e f : Engine} (h : CommandEffect c e f) : OutcomeConsistent f := by
  cases h with
  | keyLoaded | blockOut => exact .inl ⟨rfl, rfl⟩
  | keySize _ hcnt => exact .inr (.inl ⟨rfl, hcnt⟩)
  | blockSize _ hkey hcnt => exact .inr (.inr (.inl ⟨rfl, hcnt, hkey⟩))
  | noKey _ hkey => exact .inr (.inr (.inr (.inl ⟨rfl, rfl, hkey⟩)))
  | illegal h1 h2 h3 => exact .inr (.inr (.inr (.inr ⟨rfl, h1, h2, h3⟩)))

/-- Settles O49: every command writes a consistent outcome, and no push touches ERR, ERR_INFO or KEYVALID. -/
theorem stepKeepsOutcomeConsistent : Obligations.StepKeepsOutcomeConsistent := fun _ _ =>
  step_preserves reset_outcomeConsistent (fun _ _ he => he) (fun _ _ he => he) fun _ _ _ h _ => h.outcomeConsistent

/-! ## The working registers (R32 to R35, R178) -/

theorem reset_atRest : AtRest Engine.reset := ⟨rfl, rfl, rfl, rfl⟩

theorem complete_atRest (e : Engine) : AtRest (complete e) := ⟨rfl, rfl, rfl, rfl⟩

/-- R178: every command ends with Complete. -/
theorem CommandEffect.atRest {c : Byte} {e f : Engine} (h : CommandEffect c e f) : AtRest f := by
  cases h <;> exact complete_atRest _

/-- Settles O50: every command completes, and no push touches the working registers. -/
theorem stepKeepsAtRest : Obligations.StepKeepsAtRest := fun _ _ =>
  step_preserves reset_atRest (fun _ _ he => he) (fun _ _ he => he) fun _ _ _ h _ => h.atRest

/-! ## BLOCK_OUT (R28, R241) -/

/-- A command writes BLOCK_OUT only where ENCRYPT or DECRYPT succeeds. -/
theorem CommandEffect.blockOut_cases {c : Byte} {e f : Engine} (h : CommandEffect c e f) :
    f.blockOut = e.blockOut ∨ AcceptedCrypt (wr 0x02 c) e := by
  cases h with
  | blockOut v hc hkey hcnt =>
    obtain ⟨rfl, -⟩ | ⟨rfl, -⟩ := hc
    · exact .inr ⟨.inl rfl, hkey, hcnt⟩
    · exact .inr ⟨.inr rfl, hkey, hcnt⟩
  | keyLoaded => exact .inl (finish_blockOut _)
  | keySize | blockSize | noKey | illegal => exact .inl (raise_blockOut _ _ _)

/-- Settles O54: of everything a step can do, only an accepted command or reset can be what wrote BLOCK_OUT. -/
theorem onlySuccessfulCryptAndResetWriteBlockOut : Obligations.OnlySuccessfulCryptAndResetWriteBlockOut := by
  intro s t h hne
  obtain hsame | ⟨a, rest, hp, ⟨v, -, ht⟩ | ⟨v, -, ht⟩ | ⟨c, rfl, ht⟩ | ⟨hreset, -⟩⟩ := step_engine_cases h
  · exact absurd (congrArg Engine.blockOut hsame) hne
  · exact absurd (congrArg Engine.blockOut ht) hne
  · exact absurd (congrArg Engine.blockOut ht) hne
  · rw [ht] at hne
    exact ⟨_, rest, hp, .inl ((command_effect c s.engine).blockOut_cases.resolve_left hne)⟩
  · exact ⟨a, rest, hp, .inr hreset⟩

/-! ## The push buffers (R25, R27, R40, R54, R55) -/

/-- One push into a buffer of `n` bytes with its saturating counter: what PushKey and PushBlock have in common (R54, R55). -/
def pushByte {n : Nat} (v : Byte) (p : Vector Byte n × Byte) : Vector Byte n × Byte :=
  (if h : p.2.toNat < n then p.1.set p.2.toNat v h else p.1, saturatingInc p.2)

/-- A list of pushes, the first byte first. -/
def pushBytes {n : Nat} (p : Vector Byte n × Byte) (bs : List Byte) : Vector Byte n × Byte :=
  bs.foldl (fun p v => pushByte v p) p

theorem foldl_pushKey (bs : List Byte) (e : Engine) :
    bs.foldl (fun e v => pushKey v e) e = { e with
      keyBuf := (pushBytes (e.keyBuf, e.keyCnt) bs).1, keyCnt := (pushBytes (e.keyBuf, e.keyCnt) bs).2 } := by
  induction bs generalizing e with
  | nil => rfl
  | cons b bs ih => exact ih (pushKey b e)

theorem foldl_pushBlock (bs : List Byte) (e : Engine) :
    bs.foldl (fun e v => pushBlock v e) e = { e with
      blkBuf := (pushBytes (e.blkBuf, e.blkCnt) bs).1, blkCnt := (pushBytes (e.blkBuf, e.blkCnt) bs).2 } := by
  induction bs generalizing e with
  | nil => rfl
  | cons b bs ih => exact ih (pushBlock b e)

theorem pushBytes_count {n : Nat} (p : Vector Byte n × Byte) (bs : List Byte) :
    (pushBytes p bs).2.toNat = min (p.2.toNat + bs.length) 255 := by
  induction bs generalizing p with
  | nil =>
    have := p.2.isLt
    simp only [pushBytes, List.foldl_nil, List.length_nil]
    omega
  | cons b bs ih =>
    have hrec : (pushBytes p (b :: bs)).2.toNat = _ := ih (pushByte b p)
    rw [hrec, pushByte, saturatingInc_toNat, List.length_cons]
    omega

theorem pushByte_getElem {n : Nat} (v : Byte) (p : Vector Byte n × Byte) (i : Nat) (hi : i < n) :
    (pushByte v p).1[i] = if i = p.2.toNat then v else p.1[i] := by
  rw [pushByte]
  by_cases h : p.2.toNat < n
  · simp only [h, dif_pos, Vector.getElem_set, eq_comm]
  · have hne : i ≠ p.2.toNat := by omega
    simp only [h, hne, dif_neg, if_false, not_false_eq_true]

/-- Entry i holds the byte pushed when the counter stood at i, and what it held before if none was. The bound on `n` is
what saturation needs: in a longer buffer entry 255 would be written again and again. -/
theorem pushBytes_getElem {n : Nat} (hn : n ≤ 255) (p : Vector Byte n × Byte) (bs : List Byte) (i : Nat) (hi : i < n) :
    (pushBytes p bs).1[i] = if p.2.toNat ≤ i then bs[i - p.2.toNat]?.getD p.1[i] else p.1[i] := by
  induction bs generalizing p with
  | nil => simp [pushBytes]
  | cons b bs ih =>
    have hrec : (pushBytes p (b :: bs)).1[i] = _ := ih (pushByte b p)
    have hcnt : (pushByte b p).2.toNat = min (p.2.toNat + 1) 255 := saturatingInc_toNat p.2
    rw [hrec, pushByte_getElem, hcnt]
    obtain hlt | heq | hgt := Nat.lt_trichotomy i p.2.toNat
    · rw [if_neg (by omega), if_neg (by omega), if_neg (by omega)]
    · rw [if_neg (by omega), if_pos heq, if_pos (by omega), show i - p.2.toNat = 0 by omega]
      rfl
    · obtain ⟨m, hm⟩ : ∃ m, i = p.2.toNat + 1 + m := ⟨i - (p.2.toNat + 1), by omega⟩
      have hmin : min (p.2.toNat + 1) 255 = p.2.toNat + 1 := by omega
      rw [hmin, if_pos (by omega), if_neg (by omega), if_pos (by omega), show i - (p.2.toNat + 1) = m by omega,
        show i - p.2.toNat = m + 1 by omega, List.getElem?_cons_succ]

/-- R40: from a counter at 0, entry i is the i-th byte pushed, and the counter is the number of pushes, saturated. -/
theorem pushBytes_from_zero {n : Nat} (hn : n ≤ 255) (buf : Vector Byte n) (bs : List Byte) :
    (pushBytes (buf, 0) bs).2.toNat = min bs.length 255 ∧
    ∀ i : Fin n, (pushBytes (buf, 0) bs).1[i] = if h : i.val < bs.length then bs[i.val] else buf[i] := by
  refine ⟨by simpa using pushBytes_count (buf, 0) bs, fun i => ?_⟩
  have hget := pushBytes_getElem hn (buf, 0) bs i.val i.isLt
  by_cases h : i.val < bs.length <;> simpa [h] using hget

/-- Settles O38: a list of PushKeys is a list of pushes into KEY_BUF and KEY_CNT, and nothing else. -/
theorem keyBufferHoldsThePushedBytes : Obligations.KeyBufferHoldsThePushedBytes := by
  intro e bs hcnt
  rw [foldl_pushKey, hcnt]
  obtain ⟨hcount, hget⟩ := pushBytes_from_zero (by omega) e.keyBuf bs
  exact ⟨hcount, hget, rfl⟩

/-- Settles O39: a list of PushBlocks is a list of pushes into BLK_BUF and BLK_CNT, and nothing else. -/
theorem blockBufferHoldsThePushedBytes : Obligations.BlockBufferHoldsThePushedBytes := by
  intro e bs hcnt
  rw [foldl_pushBlock, hcnt]
  obtain ⟨hcount, hget⟩ := pushBytes_from_zero (by omega) e.blkBuf bs
  exact ⟨hcount, hget, rfl⟩

end Sys2Proof.Machine
end

section
/-!
PROOFS. The family of spec/20_memory.md: MemRead and MemWrite at every offset of the window (R52 to R57), where the window
stands (R51), which accesses are refused and which never are (R63, R71, R216), and that no step shows the host key or block
material (R52, R66).
-/

namespace Sys2Proof.Machine

open Sys2Proof.Safety

/-! ## MemRead (R52, R57) -/

theorem memRead_eq_blockOutByte {off : Byte} (h : off.toNat < 3 ∨ 7 ≤ off.toNat) (e : Engine) :
    memRead off e = blockOutByte e off := by
  rw [memRead, if_neg, if_neg, if_neg, if_neg] <;> bv_omega

theorem memRead_blockOut (k : Fin 8) (e : Engine) : memRead (BitVec.ofNat 8 (0x08 + k.val)) e = e.blockOut[k] := by
  have hoff : (BitVec.ofNat 8 (0x08 + k.val)).toNat = 8 + k.val := Nat.mod_eq_of_lt (by omega)
  rw [memRead_eq_blockOutByte (by omega), blockOutByte, dif_pos (by omega)]
  simp only [hoff, Nat.add_sub_cancel_left, Fin.getElem_fin]

/-- The write ports and the reserved offsets read 0x00: none is one of the registers of R37. -/
theorem memRead_of_no_register {off : Byte} (h : off.toNat < 3 ∨ off.toNat = 7 ∨ 0x10 ≤ off.toNat) (e : Engine) :
    memRead off e = 0x00 := by
  rw [memRead_eq_blockOutByte (by omega), blockOutByte, dif_neg (by omega)]

/-- Settles O34: the four single registers, the bytes of BLOCK_OUT, and the offsets that show no register. -/
theorem readMapOfTheWindow : Obligations.ReadMapOfTheWindow := by
  intro e off
  refine ⟨rfl, rfl, rfl, rfl, fun k => memRead_blockOut k e, fun hoff => memRead_of_no_register ?_ e⟩
  obtain rfl | rfl | rfl | rfl | hge := hoff
  case inr.inr.inr.inr => exact .inr (.inr hge)
  all_goals decide

/-! ## MemWrite (R53 to R57) -/

theorem memWrite_keyIn (v : Byte) (s : State) : memWrite 0x00 v s = .next (s.withEngine (pushKey v s.engine)) := rfl

theorem memWrite_blkIn (v : Byte) (s : State) : memWrite 0x01 v s = .next (s.withEngine (pushBlock v s.engine)) := rfl

theorem memWrite_cmd (v : Byte) (s : State) :
    memWrite 0x02 v s = .next (s.withEngine (runTicks 32 (beginCommand (decode v) s.engine))) :=
  exec_eq_runTicks (decode v) s

/-- R57: no offset from 0x03 up takes a write. -/
theorem memWrite_of_ge {off : Byte} (h : 0x03 ≤ off.toNat) (v : Byte) (s : State) : memWrite off v s = .next s := by
  rw [memWrite, if_neg, if_neg, if_neg] <;> bv_omega

/-- The three write ports, and every other offset. -/
theorem offset_cases (off : Byte) : off = 0x00 ∨ off = 0x01 ∨ off = 0x02 ∨ 0x03 ≤ off.toNat := by bv_omega

/-- Settles O37: MemWrite has no port from 0x03 up, and the reserved offsets show no register. -/
theorem otherWritesAreIgnored : Obligations.OtherWritesAreIgnored := by
  intro s off v hoff
  refine ⟨memWrite_of_ge hoff v s, fun hreserved => memRead_of_no_register (.inr ?_) s.engine⟩
  exact hreserved.imp_left (congrArg BitVec.toNat)

theorem pushByte_of_lt {n : Nat} (hn : n ≤ 255) (v : Byte) {p : Vector Byte n × Byte} (h : p.2.toNat < n) :
    pushByte v p = (p.1.set p.2.toNat v h, p.2 + 1) := by
  have hunsaturated : p.2 ≠ 255 := by bv_omega
  rw [pushByte, dif_pos h, saturatingInc, if_neg hunsaturated]

theorem pushByte_of_ge {n : Nat} (v : Byte) {p : Vector Byte n × Byte} (h : n ≤ p.2.toNat) :
    pushByte v p = (p.1, BitVec.ofNat 8 (min (p.2.toNat + 1) 255)) := by
  have hcnt : saturatingInc p.2 = BitVec.ofNat 8 (min (p.2.toNat + 1) 255) := by
    rw [← saturatingInc_toNat, BitVec.ofNat_toNat, BitVec.setWidth_eq]
  rw [pushByte, dif_neg (Nat.not_lt.mpr h), hcnt]

theorem pushKey_eq_pushByte (v : Byte) (e : Engine) :
    pushKey v e =
      { e with keyBuf := (pushByte v (e.keyBuf, e.keyCnt)).1, keyCnt := (pushByte v (e.keyBuf, e.keyCnt)).2 } := rfl

theorem pushBlock_eq_pushByte (v : Byte) (e : Engine) :
    pushBlock v e =
      { e with blkBuf := (pushByte v (e.blkBuf, e.blkCnt)).1, blkCnt := (pushByte v (e.blkBuf, e.blkCnt)).2 } := rfl

/-- Settles O35: PushKey is a push into KEY_BUF, with room and without. -/
theorem pushKeyStoresAndCounts : Obligations.PushKeyStoresAndCounts := by
  intro s v
  constructor <;> intro hcnt
  · rw [memWrite_keyIn, pushKey_eq_pushByte, pushByte_of_lt (by omega) v hcnt]
    rfl
  · rw [memWrite_keyIn, pushKey_eq_pushByte, pushByte_of_ge v hcnt]
    rfl

/-- Settles O36: PushBlock is a push into BLK_BUF, with room and without. -/
theorem pushBlockStoresAndCounts : Obligations.PushBlockStoresAndCounts := by
  intro s v
  constructor <;> intro hcnt
  · rw [memWrite_blkIn, pushBlock_eq_pushByte, pushByte_of_lt (by omega) v hcnt]
    rfl
  · rw [memWrite_blkIn, pushBlock_eq_pushByte, pushByte_of_ge v hcnt]
    rfl

/-! ## Which accesses are refused (R51, R63), and which never are (R71, R216) -/

theorem serve_read (target : Target) (size : Nat) (s : State) :
    serve (.read target size) s = busAccess target size fun off => hostRead off s := rfl

theorem serve_write (target : Target) (size : Nat) (v : Byte) (s : State) :
    serve (.write target size v) s = busAccess target size fun off => memWrite off v s := rfl

/-- Settles O43: the port refuses the size before it performs the access. -/
theorem otherSizesAreRefused : Obligations.OtherSizesAreRefused := by
  intro s off v size hsize
  rw [serve_read, serve_write]
  exact ⟨busAccess_window_of_ne hsize off _, busAccess_window_of_ne hsize off _⟩

theorem targetOf_engineBase_add (off : Byte) : targetOf (Config.engineBase + off.toNat) = .window off := by
  have hlt := off.isLt
  rw [targetOf, if_pos (by omega), Nat.add_sub_cancel_left, BitVec.ofNat_toNat, BitVec.setWidth_eq]

theorem targetOf_of_outside {addr : Nat} (h : addr < Config.engineBase ∨ Config.engineBase + 256 ≤ addr) :
    targetOf addr = .elsewhere addr := if_neg (by omega)

/-- An address that reaches an offset is inside the window, so it is ENGINE_BASE plus an offset, which is that one. -/
theorem eq_engineBase_add_of_targetOf {addr : Nat} {off : Byte} (h : targetOf addr = .window off) :
    addr = Config.engineBase + off.toNat := by
  by_cases hout : addr < Config.engineBase ∨ Config.engineBase + 256 ≤ addr
  · rw [targetOf_of_outside hout] at h
    cases h
  · obtain ⟨k, rfl⟩ : ∃ k : Byte, addr = Config.engineBase + k.toNat :=
      ⟨BitVec.ofNat 8 (addr - Config.engineBase), by rw [BitVec.toNat_ofNat]; omega⟩
    rw [targetOf_engineBase_add] at h
    injection h with hk
    rw [hk]

/-- Settles O44: the two directions of the placement, and the refusal of every address outside it. -/
theorem windowStandsAtEngineBase : Obligations.WindowStandsAtEngineBase := by
  refine ⟨targetOf_engineBase_add, fun _ _ => eq_engineBase_add_of_targetOf, fun addr size v s hout => ?_⟩
  rw [targetOf_of_outside hout, serve_read, serve_write]
  exact ⟨busAccess_elsewhere addr size _, busAccess_elsewhere addr size _⟩

theorem memWrite_next (off v : Byte) (s : State) : ∃ t, memWrite off v s = .next t := by
  obtain rfl | rfl | rfl | hge := offset_cases off
  · exact ⟨_, memWrite_keyIn v s⟩
  · exact ⟨_, memWrite_blkIn v s⟩
  · exact ⟨_, memWrite_cmd v s⟩
  · exact ⟨_, memWrite_of_ge hge v s⟩

theorem serve_next_of_isEngineAccess {a : HostAccess} (h : IsEngineAccess a) (s : State) : ∃ t, serve a s = .next t := by
  match a, h with
  | .read (.window off) size, hsize => obtain rfl : size = 1 := hsize; exact ⟨_, serve_rd off s⟩
  | .write (.window off) size v, hsize => obtain rfl : size = 1 := hsize; exact memWrite_next off v s
  | .reset, _ => exact ⟨_, serve_reset s⟩
  | .resetDuringCommand c k, _ => exact ⟨_, serve_resetDuringCommand c k s⟩

/-- Settles O45: an idle step, or the service of an access the engine has. -/
theorem engineAccessesNeverStop : Obligations.EngineAccessesNeverStop := by
  intro s h
  match hp : s.pending with
  | [] => exact ⟨s, step_of_pending_nil hp⟩
  | a :: rest => rw [step_of_pending_cons hp]; exact serve_next_of_isEngineAccess (h a rest hp) _

/-! ## What the host cannot tell apart, each operation keeps so (R52, R66) -/

theorem sameToHost_refl (e : Engine) : SameToHost e e := ⟨rfl, rfl, rfl, rfl, rfl, rfl⟩

section

variable {e f : Engine} (h : SameToHost e f)
include h

theorem sameToHost_memRead (off : Byte) : memRead off e = memRead off f := by
  obtain ⟨hvalid, herr, hinfo, hkcnt, hbcnt, hout⟩ := h
  exact memRead_congr off (.inr ⟨hvalid, herr⟩) (.inr hinfo) (.inr hkcnt) (.inr hbcnt) (.inr hout)

theorem sameToHost_pushKey (v : Byte) : SameToHost (pushKey v e) (pushKey v f) := by
  obtain ⟨hvalid, herr, hinfo, hkcnt, hbcnt, hout⟩ := h
  exact ⟨hvalid, herr, hinfo, congrArg saturatingInc hkcnt, hbcnt, hout⟩

theorem sameToHost_pushBlock (v : Byte) : SameToHost (pushBlock v e) (pushBlock v f) := by
  obtain ⟨hvalid, herr, hinfo, hkcnt, hbcnt, hout⟩ := h
  exact ⟨hvalid, herr, hinfo, hkcnt, congrArg saturatingInc hbcnt, hout⟩

theorem sameToHost_clearKeyCnt : SameToHost (clearKeyCnt e) (clearKeyCnt f) := by
  obtain ⟨hvalid, herr, hinfo, -, hbcnt, hout⟩ := h
  exact ⟨hvalid, herr, hinfo, rfl, hbcnt, hout⟩

theorem sameToHost_clearBlkCnt : SameToHost (clearBlkCnt e) (clearBlkCnt f) := by
  obtain ⟨hvalid, herr, hinfo, hkcnt, -, hout⟩ := h
  exact ⟨hvalid, herr, hinfo, hkcnt, rfl, hout⟩

theorem sameToHost_runTicks_raise (n : Nat) (c : ErrCode) (b : Byte) :
    SameToHost (runTicks n (raise c b e)) (runTicks n (raise c b f)) := by
  obtain ⟨hvalid, -, -, hkcnt, hbcnt, hout⟩ := h
  rw [runTicks_raise, runTicks_raise]
  exact ⟨hvalid, rfl, rfl, hkcnt, hbcnt, hout⟩

/-- However the two schedules differ, what LOADKEY installs shows as KEYVALID alone. -/
theorem sameToHost_install (rk rk' : RoundKeys) :
    SameToHost (finish { e with rk := rk, keyValid := true }) (finish { f with rk := rk', keyValid := true }) := by
  obtain ⟨-, -, -, hkcnt, hbcnt, hout⟩ := h
  exact ⟨rfl, rfl, rfl, hkcnt, hbcnt, hout⟩

/-- LOADKEY is accepted or raises by KEY_CNT, which the host sees. -/
theorem sameToHost_loadkey : SameToHost (runTicks 32 (beginLoadkey e)) (runTicks 32 (beginLoadkey f)) := by
  have ⟨_, _, _, hkcnt, _, _⟩ := h
  rw [beginLoadkey, beginLoadkey, ← hkcnt]
  split
  · exact sameToHost_runTicks_raise (sameToHost_clearKeyCnt h) _ _ _
  · rw [runTicks_startKeySchedule_whole, runTicks_startKeySchedule_whole]
    exact sameToHost_install (sameToHost_clearKeyCnt h) _ _

/-- A rejected ENCRYPT or DECRYPT raises by KEYVALID and BLK_CNT, which the host sees. -/
theorem sameToHost_crypt_of_rejected (start : Engine → Engine) (hreject : ¬ (e.keyValid = true ∧ e.blkCnt = 8)) :
    SameToHost (runTicks 32 (beginCrypt start e)) (runTicks 32 (beginCrypt start f)) := by
  have ⟨hvalid, _, _, _, hbcnt, _⟩ := h
  rw [beginCrypt, beginCrypt, ← hvalid, ← hbcnt]
  split_ifs with hkey hcnt
  · exact sameToHost_runTicks_raise (sameToHost_clearBlkCnt h) _ _ _
  · exact sameToHost_runTicks_raise (sameToHost_clearBlkCnt h) _ _ _
  · exact absurd ⟨eq_true_of_ne_false hkey, not_not.mp hcnt⟩ hreject

theorem sameToHost_command (c : Byte) (hreject : ¬ AcceptedCrypt (wr 0x02 c) e) :
    SameToHost (runTicks 32 (beginCommand (decode c) e)) (runTicks 32 (beginCommand (decode c) f)) := by
  by_cases h1 : c = 1
  · subst h1; exact sameToHost_loadkey h
  by_cases h2 : c = 2
  · subst h2; exact sameToHost_crypt_of_rejected h startEncrypt fun hacc => hreject ⟨.inl rfl, hacc⟩
  by_cases h3 : c = 3
  · subst h3; exact sameToHost_crypt_of_rejected h startDecrypt fun hacc => hreject ⟨.inr rfl, hacc⟩
  · rw [beginCommand_decode_of_illegal h1 h2 h3, beginCommand_decode_of_illegal h1 h2 h3]
    exact sameToHost_runTicks_raise h _ _ _

end

/-- Two states the host cannot tell apart: by the engine's window, by what it has still to do, or by what it has read. -/
structure AlikeToHost (s s' : State) : Prop where
  engine : SameToHost s.engine s'.engine
  pending : s.pending = s'.pending
  observed : s.observed = s'.observed

/-- Two answers the host cannot tell apart: next states alike, or the same refusal. -/
inductive AnswersAlike : Host.Outcome State Fault Refusal → Host.Outcome State Fault Refusal → Prop
  | next {t t' : State} (h : AlikeToHost t t') : AnswersAlike (.next t) (.next t')
  | refused (r : Refusal) : AnswersAlike (.refused r) (.refused r)

theorem AnswersAlike.exists_next {t : State} {answer : Host.Outcome State Fault Refusal}
    (h : AnswersAlike (.next t) answer) : ∃ t', answer = .next t' ∧ AlikeToHost t t' := by
  cases h with
  | next ht => exact ⟨_, rfl, ht⟩

theorem AnswersAlike.eq_refused {r : Refusal} {answer : Host.Outcome State Fault Refusal}
    (h : AnswersAlike (.refused r) answer) : answer = .refused r := by
  cases h with
  | refused => rfl

theorem AlikeToHost.withEngine {s s' : State} (h : AlikeToHost s s') {e f : Engine} (he : SameToHost e f) :
    AlikeToHost (s.withEngine e) (s'.withEngine f) := ⟨he, h.pending, h.observed⟩

theorem AlikeToHost.hostRead_answersAlike {s s' : State} (h : AlikeToHost s s') (off : Byte) :
    AnswersAlike (hostRead off s) (hostRead off s') :=
  .next ⟨h.engine, h.pending, congrArg₂ (· ++ [·]) h.observed (sameToHost_memRead h.engine off)⟩

theorem AlikeToHost.memWrite_answersAlike {s s' : State} (h : AlikeToHost s s') (off v : Byte)
    (hreject : ¬ AcceptedCrypt (wr off v) s.engine) : AnswersAlike (memWrite off v s) (memWrite off v s') := by
  obtain rfl | rfl | rfl | hge := offset_cases off
  · exact .next (h.withEngine (sameToHost_pushKey h.engine v))
  · exact .next (h.withEngine (sameToHost_pushBlock h.engine v))
  · rw [memWrite_cmd, memWrite_cmd]
    exact .next (h.withEngine (sameToHost_command h.engine v hreject))
  · rw [memWrite_of_ge hge, memWrite_of_ge hge]
    exact .next h

/-- The port refuses by target and size alone, so it answers alike where every one-byte access at the target does. -/
theorem busAccess_answersAlike {target : Target} {size : Nat} {act act' : Byte → Host.Outcome State Fault Refusal}
    (h : ∀ off, target = .window off → size = 1 → AnswersAlike (act off) (act' off)) :
    AnswersAlike (busAccess target size act) (busAccess target size act') := by
  match target with
  | .elsewhere addr => exact .refused _
  | .window off =>
    by_cases hsize : size = 1
    · subst hsize; exact h off rfl rfl
    · rw [busAccess_window_of_ne hsize, busAccess_window_of_ne hsize]
      exact .refused _

theorem AlikeToHost.serve_answersAlike {s s' : State} (h : AlikeToHost s s') {a : HostAccess}
    (hreject : ¬ AcceptedCrypt a s.engine) : AnswersAlike (serve a s) (serve a s') := by
  match a with
  | .read _ _ =>
    rw [serve_read, serve_read]
    exact busAccess_answersAlike fun off _ _ => h.hostRead_answersAlike off
  | .write _ _ v =>
    rw [serve_write, serve_write]
    refine busAccess_answersAlike fun off htarget hsize => h.memWrite_answersAlike off v ?_
    rwa [htarget, hsize] at hreject
  | .reset => exact .next (h.withEngine (sameToHost_refl Engine.reset))
  | .resetDuringCommand _ _ => exact .next (h.withEngine (sameToHost_refl Engine.reset))

theorem AlikeToHost.step_answersAlike {s s' : State} (h : AlikeToHost s s')
    (hreject : ∀ a rest, s.pending = a :: rest → ¬ AcceptedCrypt a s.engine) : AnswersAlike (step s) (step s') := by
  match hp : s.pending with
  | [] =>
    rw [step_of_pending_nil hp, step_of_pending_nil (h.pending ▸ hp)]
    exact .next h
  | a :: rest =>
    rw [step_of_pending_cons hp, step_of_pending_cons (h.pending ▸ hp)]
    have hrest : AlikeToHost { s with pending := rest } { s' with pending := rest } := ⟨h.engine, rfl, h.observed⟩
    exact hrest.serve_answersAlike (hreject a rest hp)

/-- Settles O55: being alike to the host is a simulation, which every step keeps but an accepted ENCRYPT or DECRYPT. -/
theorem keyMaterialIsNeverObserved : Obligations.KeyMaterialIsNeverObserved := by
  intro s s' hengine hpending hobserved hreject
  have hanswers := AlikeToHost.step_answersAlike ⟨hengine, hpending, hobserved⟩ hreject
  constructor
  · intro t ht
    obtain ⟨t', ht', hengine', hpending', hobserved'⟩ := (ht ▸ hanswers).exists_next
    exact ⟨t', ht', hengine', hpending', hobserved'⟩
  · intro r hr
    exact (hr ▸ hanswers).eq_refused

end Sys2Proof.Machine
end

section
/-!
PROOFS. The family of spec/30_encoding.md: the opcode table and the decoder (R80 to R85), the write to CMD (R80, R170), and
the access sequences of R88 run from their first push to their last access (R233, R234, R240).
-/

namespace Sys2Proof.Machine

open Sys2Proof.Safety

/-! ## The opcode table (R83, R84) -/

theorem matches_iff (r : OpcodeRow) (c : Byte) : r.Matches c = true ↔ c &&& r.mask = r.pattern := beq_iff_eq

/-- Any two rows differ in the pattern of a bit that both compare. -/
theorem opcodeRows_differ : ∀ r ∈ opcodeRows, ∀ r' ∈ opcodeRows,
    r.pattern &&& r'.mask = r'.pattern &&& r.mask → r = r' := by decide

/-- R84: no byte matches two rows. -/
theorem opcodeRow_unique {r r' : OpcodeRow} (hr : r ∈ opcodeRows) (hr' : r' ∈ opcodeRows) {c : Byte}
    (hc : r.Matches c = true) (hc' : r'.Matches c = true) : r = r' := by
  rw [matches_iff] at hc hc'
  apply opcodeRows_differ r hr r' hr'
  rw [← hc, ← hc', BitVec.and_assoc, BitVec.and_assoc, BitVec.and_comm r.mask]

theorem row_mem_opcodeRows (i : Instr) : i.row ∈ opcodeRows := by
  cases i <;> simp [Instr.row, opcodeRows]

/-- A well-formed command's byte matches the command's own row. -/
theorem row_matches_encode {i : Instr} (h : i.wellFormed = true) : i.row.Matches (encode i) = true := by
  cases i with
  | loadkey => exact Laws.FitsItsRow.loadkey h
  | encrypt => exact Laws.FitsItsRow.encrypt h
  | decrypt => exact Laws.FitsItsRow.decrypt h
  | illegal00 => exact Laws.FitsItsRow.illegal00 h
  | illegal04 c => exact Laws.FitsItsRow.illegal04 c h
  | illegal08 c => exact Laws.FitsItsRow.illegal08 c h
  | illegal10 c => exact Laws.FitsItsRow.illegal10 c h
  | illegal20 c => exact Laws.FitsItsRow.illegal20 c h
  | illegal40 c => exact Laws.FitsItsRow.illegal40 c h
  | illegal80 c => exact Laws.FitsItsRow.illegal80 c h

/-- The command of the same row that carries byte `c`. -/
def withByte (c : Byte) : Instr → Instr
  | .loadkey => .loadkey
  | .encrypt => .encrypt
  | .decrypt => .decrypt
  | .illegal00 => .illegal00
  | .illegal04 _ => .illegal04 c
  | .illegal08 _ => .illegal08 c
  | .illegal10 _ => .illegal10 c
  | .illegal20 _ => .illegal20 c
  | .illegal40 _ => .illegal40 c
  | .illegal80 _ => .illegal80 c

theorem withByte_encode_decode_pattern (i : Instr) : withByte (encode i) (decode i.row.pattern) = i := by
  cases i <;> simp [Instr.row, decode, withByte, encode]

/-- A command is determined by its row and its byte. -/
theorem instr_ext {i j : Instr} (hrow : i.row = j.row) (hbyte : encode i = encode j) : i = j := by
  rw [← withByte_encode_decode_pattern i, hrow, hbyte, withByte_encode_decode_pattern]

/-! ## The decoder (R81, R83 to R85) -/

/-- Settles O1: the three rows with a command of their own are the first that `decode` tries. -/
theorem commandBytesDecode : Obligations.CommandBytesDecode := ⟨rfl, rfl, rfl⟩

/-- A byte that no row from 0x01 to 0x40 matches has bit 7 set, so `decode` need not test the last row. -/
theorem last_row_matches : ∀ c : Byte, (∀ r ∈ opcodeRows.dropLast, r.Matches c = false) → c &&& 0x80 = 0x80 := by
  decide +kernel

theorem decode_wellFormed_encode (c : Byte) : (decode c).wellFormed = true ∧ encode (decode c) = c := by
  have hmask : c &&& 0xFF = c := BitVec.and_allOnes
  unfold decode
  split_ifs with h1 h2 h3 h0 h4 h8 h10 h20 h40
  · exact ⟨rfl, h1.symm.trans hmask⟩
  · exact ⟨rfl, h2.symm.trans hmask⟩
  · exact ⟨rfl, h3.symm.trans hmask⟩
  · exact ⟨rfl, h0.symm.trans hmask⟩
  · exact ⟨beq_iff_eq.2 h4, rfl⟩
  · exact ⟨beq_iff_eq.2 h8, rfl⟩
  · exact ⟨beq_iff_eq.2 h10, rfl⟩
  · exact ⟨beq_iff_eq.2 h20, rfl⟩
  · exact ⟨beq_iff_eq.2 h40, rfl⟩
  · have hlast : c &&& 0x80 = 0x80 := last_row_matches c <| by
      simpa [opcodeRows, OpcodeRow.Matches] using ⟨h1, h2, h3, h0, h4, h8, h10, h20, h40⟩
    exact ⟨beq_iff_eq.2 hlast, rfl⟩

theorem decode_wellFormed (c : Byte) : (decode c).wellFormed = true := (decode_wellFormed_encode c).1

theorem encode_decode (c : Byte) : encode (decode c) = c := (decode_wellFormed_encode c).2

theorem decode_row_matches (c : Byte) : (decode c).row.Matches c = true := by
  simpa only [encode_decode] using row_matches_encode (decode_wellFormed c)

/-- R84: the row of `decode c` is the one row that matches `c`. -/
theorem matches_iff_eq_row_decode {r : OpcodeRow} (hr : r ∈ opcodeRows) (c : Byte) :
    r.Matches c = true ↔ r = (decode c).row := by
  constructor
  · exact fun hc => opcodeRow_unique hr (row_mem_opcodeRows _) hc (decode_row_matches c)
  · rintro rfl
    exact decode_row_matches c

/-- Settles O2: the rows that match `c` are the occurrences of the row of `decode c` in the table, which repeats none. -/
theorem everyByteHasExactlyOneRow : Obligations.EveryByteHasExactlyOneRow := by
  intro c
  have hcount : (opcodeRows.filter (·.Matches c)).length = opcodeRows.count (decode c).row := by
    rw [← List.countP_eq_length_filter, List.count]
    exact List.countP_congr fun r hr => (matches_iff_eq_row_decode hr c).trans beq_iff_eq.symm
  have honce : opcodeRows.count (decode c).row = 1 := List.count_eq_one_of_mem (by decide) (row_mem_opcodeRows _)
  exact ⟨hcount.trans honce, row_mem_opcodeRows _, decode_row_matches c, decode_wellFormed c, encode_decode c⟩

/-- Settles O3: the command and the one decoded from its byte have that byte, and so the row it matches, in common. -/
theorem decodeOfEncodeIsTheCommand : Obligations.DecodeOfEncodeIsTheCommand := by
  intro i hi
  have hrow : i.row = (decode (encode i)).row :=
    (matches_iff_eq_row_decode (row_mem_opcodeRows i) (encode i)).1 (row_matches_encode hi)
  exact (instr_ext hrow (encode_decode (encode i)).symm).symm

/-! ## The write to CMD (R80, R170) -/

theorem memWrite_cmd_eq_exec (c : Byte) (s : State) : memWrite 0x02 c s = exec (decode c) s := rfl

/-- Settles O41: serving a write to CMD is MemWrite at CMD, which is exec. -/
theorem stepRunsTheDecodedCommand : Obligations.StepRunsTheDecodedCommand := by
  intro s c rest h
  rw [step_of_pending_cons h, serve_wr, memWrite_cmd_eq_exec]

theorem tableByte_toNat (c : Byte) : tableByte 8 c.toNat = c := by
  rw [tableByte, Nat.mod_eq_of_lt c.isLt, BitVec.ofNat_toNat, BitVec.setWidth_eq]

theorem withFetchWord_pending (s : State) (c : Byte) :
    (s.withFetchWord 8 c.toNat).pending = wr 0x02 c :: s.pending := by
  rw [State.withFetchWord, tableByte_toNat, wr]

/-- Settles O42: the access placed in front is a write to CMD, and taking it off the list gives the state back. -/
theorem fetchWordIsRunNext : Obligations.FetchWordIsRunNext := fun s c =>
  stepRunsTheDecodedCommand _ c s.pending (withFetchWord_pending s c)

/-! ## Runs of pushes and reads (R87, R88) -/

/-- A run of pushes into one port, whose push operation is `push`. -/
theorem runSteps_pushes {off : Byte} {push : Byte → Engine → Engine}
    (hport : ∀ v s, memWrite off v s = .next (s.withEngine (push v s.engine))) (bs : List Byte) (n : Nat) (s : State)
    {rest : List HostAccess} (h : s.pending = bs.map (wr off) ++ rest) :
    runSteps (bs.length + n) s =
      runSteps n { s with pending := rest, engine := bs.foldl (fun e v => push v e) s.engine } := by
  induction bs generalizing s with
  | nil => rw [List.length_nil, Nat.zero_add, ← show s.pending = rest from h]; rfl
  | cons b bs ih =>
    rw [List.length_cons, Nat.add_right_comm, runSteps_of_step _ ((step_of_pending_cons h).trans (hport b _))]
    exact ih _ rfl

/-- A run of reads observes the bytes of one and the same engine. -/
theorem runSteps_reads (offs : List Byte) (n : Nat) (s : State) {rest : List HostAccess}
    (h : s.pending = offs.map rd ++ rest) :
    runSteps (offs.length + n) s =
      runSteps n { s with pending := rest, observed := s.observed ++ offs.map (memRead · s.engine) } := by
  induction offs generalizing s with
  | nil => rw [List.length_nil, Nat.zero_add, ← show s.pending = rest from h, List.map_nil, List.append_nil]
  | cons off offs ih =>
    rw [List.length_cons, Nat.add_right_comm, runSteps_of_step _ ((step_of_pending_cons h).trans (serve_rd off _)),
      ih _ rfl, State.observe_observed, List.append_assoc]
    rfl

/-- The offsets of OUT0 to OUT7, in order (R88). -/
def readoutOffsets : List Byte := (List.finRange 8).map fun k => BitVec.ofNat 8 (0x08 + k.val)

theorem readoutAccesses_eq : readoutAccesses = readoutOffsets.map rd := rfl

theorem map_memRead_readoutOffsets (e : Engine) : readoutOffsets.map (memRead · e) = e.blockOut.toList := by
  apply List.ext_getElem
  · simp [readoutOffsets]
  · intro k hk _
    have hk8 : k < 8 := by simpa [readoutOffsets] using hk
    simpa [readoutOffsets] using memRead_blockOut ⟨k, hk8⟩ e

/-- R88: `readout` observes BLOCK_OUT, byte 0 first. -/
theorem runSteps_readout (n : Nat) (s : State) {rest : List HostAccess} (h : s.pending = readoutAccesses ++ rest) :
    runSteps (8 + n) s =
      runSteps n { s with pending := rest, observed := s.observed ++ s.engine.blockOut.toList } := by
  rw [readoutAccesses_eq] at h
  rw [← map_memRead_readoutOffsets]
  exact runSteps_reads readoutOffsets n s h

/-- R40: as many pushes as the buffer has bytes, from a counter at 0, fill it with them. -/
theorem pushBytes_full {n : Nat} (hn : n ≤ 255) (buf v : Vector Byte n) :
    pushBytes (buf, 0) v.toList = (v, BitVec.ofNat 8 n) := by
  obtain ⟨hcount, hget⟩ := pushBytes_from_zero hn buf v.toList
  apply Prod.ext
  · apply Vector.ext
    intro i hi
    simpa [hi] using hget ⟨i, hi⟩
  · apply BitVec.eq_of_toNat_eq
    rw [hcount, Vector.length_toList, Nat.min_eq_left hn, BitVec.toNat_ofNat, Nat.mod_eq_of_lt (by omega)]

/-- Ten key bytes pushed from KEY_CNT 0. -/
theorem runSteps_keyPushes (key : Vector Byte 10) (n : Nat) {s : State} {rest : List HostAccess}
    (hcnt : s.engine.keyCnt = 0) (h : s.pending = key.toList.map (wr 0x00) ++ rest) :
    runSteps (10 + n) s =
      runSteps n { s with pending := rest, engine := { s.engine with keyBuf := key, keyCnt := 10 } } := by
  have hrun := runSteps_pushes memWrite_keyIn key.toList n s h
  rwa [foldl_pushKey, hcnt, pushBytes_full (by omega), Vector.length_toList] at hrun

/-- Eight block bytes pushed from BLK_CNT 0. -/
theorem runSteps_blockPushes (block : Vector Byte 8) (n : Nat) {s : State} {rest : List HostAccess}
    (hcnt : s.engine.blkCnt = 0) (h : s.pending = block.toList.map (wr 0x01) ++ rest) :
    runSteps (8 + n) s =
      runSteps n { s with pending := rest, engine := { s.engine with blkBuf := block, blkCnt := 8 } } := by
  have hrun := runSteps_pushes memWrite_blkIn block.toList n s h
  rwa [foldl_pushBlock, hcnt, pushBytes_full (by omega), Vector.length_toList] at hrun

/-- A command, as the next access of a run. -/
theorem runSteps_cmd (c : Byte) (n : Nat) {s : State} {rest : List HostAccess} (h : s.pending = wr 0x02 c :: rest) :
    runSteps (1 + n) s =
      runSteps n { s with pending := rest, engine := runTicks 32 (beginCommand (decode c) s.engine) } := by
  rw [Nat.add_comm 1 n]
  exact runSteps_of_step n ((step_of_pending_cons h).trans (memWrite_cmd c _))

/-! ## The boot sequence and the per-block sequence (R233, R234, R240) -/

/-- The end of a command that succeeds, register by register (R178). -/
theorem finish_eq (e : Engine) :
    finish e = { e with err := 0, errInfo := 0, ksr := 0, st := 0, rnd := 0, phase := .idle } := rfl

/-- R174: LOADKEY with ten bytes pushed. -/
theorem runTicks_beginLoadkey_of_ten {e : Engine} (hcnt : e.keyCnt = 10) :
    runTicks 32 (beginLoadkey e) = { e with
      rk := keySchedule (be80 e.keyBuf), keyValid := true, keyCnt := 0, err := 0, errInfo := 0,
      ksr := 0, st := 0, rnd := 0, phase := .idle } := by
  have hbegin := ((beginLoadkey_cases e).resolve_right fun h => h.1 hcnt).2
  rw [hbegin, runTicks_startKeySchedule_whole, finish_eq]
  rfl

/-- R175, R176: ENCRYPT or DECRYPT, by its sequence `start`, with KEYVALID 1 and eight bytes pushed. -/
theorem runTicks_beginCrypt_of_eight {start : Engine → Engine} {cipher : RoundKeys → Block → Block}
    (hstart : ∀ e, runTicks 32 (start e) = finish (emitBlock (cipher e.rk (be64 e.blkBuf)) e))
    {e : Engine} (hkey : e.keyValid = true) (hcnt : e.blkCnt = 8) :
    runTicks 32 (beginCrypt start e) = { e with
      blockOut := bytesBe8 (cipher e.rk (be64 e.blkBuf)), blkCnt := 0, err := 0, errInfo := 0,
      ksr := 0, st := 0, rnd := 0, phase := .idle } := by
  have hbegin := ((beginCrypt_cases start e).resolve_right (by simp [hkey, hcnt])).2.2
  rw [hbegin, hstart, finish_eq]
  rfl

/-- Settles O58: ten pushes fill KEY_BUF, and LOADKEY installs the schedule of what it holds. -/
theorem bootSequenceInstallsTheKey : Obligations.BootSequenceInstallsTheKey := by
  intro s key rest hcnt hpending
  rw [loadkeyAccesses, List.append_assoc] at hpending
  have hload : beginCommand (decode 0x01) = beginLoadkey := rfl
  rw [runSteps_keyPushes key 1 hcnt hpending, runSteps_cmd 0x01 0 rfl, hload, runTicks_beginLoadkey_of_ten rfl,
    runSteps_zero]
  rfl

/-- R234: the per-block sequence of the command of byte `c`, which runs the sequence `start` of `cipher`: the result is
observed, and only BLK_BUF, BLK_CNT and what the command writes has changed. -/
theorem runSteps_perBlock {c : Byte} {start : Engine → Engine} {cipher : RoundKeys → Block → Block}
    (hbegin : beginCommand (decode c) = beginCrypt start)
    (hstart : ∀ e, runTicks 32 (start e) = finish (emitBlock (cipher e.rk (be64 e.blkBuf)) e))
    {s : State} {block : Vector Byte 8} {rest : List HostAccess} (hkey : s.engine.keyValid = true)
    (hcnt : s.engine.blkCnt = 0)
    (h : s.pending = block.toList.map (wr 0x01) ++ [wr 0x02 c] ++ readoutAccesses ++ rest) :
    runSteps 17 s = .next {
      pending := rest
      observed := s.observed ++ (bytesBe8 (cipher s.engine.rk (be64 block))).toList
      engine := { s.engine with
        blkBuf := block, blkCnt := 0, blockOut := bytesBe8 (cipher s.engine.rk (be64 block)), err := 0, errInfo := 0,
        ksr := 0, st := 0, rnd := 0, phase := .idle } } := by
  rw [List.append_assoc, List.append_assoc] at h
  have hcrypt := runTicks_beginCrypt_of_eight hstart (e := { s.engine with blkBuf := block, blkCnt := 8 }) hkey rfl
  rw [runSteps_blockPushes block 9 hcnt h, runSteps_cmd c 8 rfl, hbegin, hcrypt, runSteps_readout 0 _ rfl, runSteps_zero]

/-- Settles O59: both clauses are the one sequence, with ENCRYPT and with DECRYPT. -/
theorem perBlockSequenceReadsTheResult : Obligations.PerBlockSequenceReadsTheResult := by
  intro s block rest hkey hcnt
  constructor <;> intro hpending
  · exact ⟨_, runSteps_perBlock rfl runTicks_startEncrypt_whole hkey hcnt hpending,
      rfl, rfl, rfl, hkey, rfl, rfl, rfl, rfl⟩
  · exact ⟨_, runSteps_perBlock rfl runTicks_startDecrypt_whole hkey hcnt hpending,
      rfl, rfl, rfl, hkey, rfl, rfl, rfl, rfl⟩

end Sys2Proof.Machine
end

section
/-!
PROOFS. The family of spec/40_sbox.md: the tables S and SI undo each other (R102). Each direction is a closed fact about the
sixteen entries of two literal tables (R103), so it is checked entry by entry, as R102 says the source's tables were.
-/

namespace Sys2Proof.Machine

@[simp] theorem sboxInv_sbox : ∀ x : Nibble, sboxInv (sbox x) = x := by decide

@[simp] theorem sbox_sboxInv : ∀ x : Nibble, sbox (sboxInv x) = x := by decide

/-- Settles O19: the two directions, each over the sixteen entries. -/
theorem sBoxTablesAreInverse : Obligations.SBoxTablesAreInverse :=
  fun x => ⟨sboxInv_sbox x, sbox_sboxInv x⟩

end Sys2Proof.Machine
end

section
/-!
PROOFS. The family of spec/41_key_schedule.md: the three steps of KeyUpdate bit by bit (R123 to R125), the entries of the schedule
(R126, R127), and that LOADKEY's result depends on the key bytes alone (R129).
-/

namespace Sys2Proof.Machine

/-! ## The rotation (R123) -/

/-- Where a bit of the rotated register came from: bits 0 to 60 came down by 19, bits 61 to 79 went up by 61. -/
theorem rotatedFrom_eq {j : Nat} (h : j < 80) : (j + 19) % 80 = if j < 61 then 19 + j else j - 61 := by
  split <;> omega

theorem rotateKey_getLsbD (r : KeyReg) {j : Nat} (h : j < 80) :
    (rotateKey r).getLsbD j = r.getLsbD ((j + 19) % 80) := by
  rw [rotatedFrom_eq h, rotateKey, BitVec.getLsbD_append]
  split
  next hlow => simp [hlow]
  next hhigh =>
    have htop : j - 61 < 19 := by omega
    simp [htop]

theorem rotateLeft_61_getLsbD (r : KeyReg) {j : Nat} (h : j < 80) :
    (r.rotateLeft 61).getLsbD j = r.getLsbD ((j + 19) % 80) := by
  rw [rotatedFrom_eq h, BitVec.getLsbD_rotateLeft]
  by_cases hlow : j < 61 <;> simp [hlow, h]

theorem rotateRight_19_getLsbD (r : KeyReg) {j : Nat} (h : j < 80) :
    (r.rotateRight 19).getLsbD j = r.getLsbD ((j + 19) % 80) := by
  rw [rotatedFrom_eq h, BitVec.getLsbD_rotateRight]
  by_cases hlow : j < 61 <;> simp [hlow, h]

/-- Settles O27: the step and the two library rotations move every bit alike. -/
theorem keyRotationBits : Obligations.KeyRotationBits := by
  intro r
  refine ⟨?left, ?right, fun _ => rotateKey_getLsbD r⟩
  case left => exact BitVec.eq_of_getLsbD_eq fun j hj => (rotateKey_getLsbD r hj).trans (rotateLeft_61_getLsbD r hj).symm
  case right => exact BitVec.eq_of_getLsbD_eq fun j hj => (rotateKey_getLsbD r hj).trans (rotateRight_19_getLsbD r hj).symm

/-! ## The S-box on the top nibble (R124) -/

/-- Settles O28: the register is the new top nibble put before the 76 bits that stay. -/
theorem keySubstitutionTopNibbleOnly : Obligations.KeySubstitutionTopNibbleOnly :=
  fun _ => ⟨BitVec.extractLsb'_append_eq_left, BitVec.extractLsb'_append_eq_right⟩

/-! ## The round counter (R125) -/

/-- The word that is XORed in: the counter's bits from bit 15 up, and zeros around them. -/
theorem shiftedCounter_getLsbD (i : RoundIndex) (j : Nat) :
    (i.setWidth 80 <<< 15).getLsbD j = (decide (15 ≤ j) && i.getLsbD (j - 15)) := by
  by_cases h : j < 80
  · by_cases hlow : j < 15
    · simp [hlow]
    · simp [h, hlow, Nat.not_lt.mp hlow]
  · rw [BitVec.getLsbD_of_ge _ _ (Nat.not_lt.mp h), BitVec.getLsbD_of_ge i _ (by omega), Bool.and_false]

theorem shiftedCounter_extractLsb' (i : RoundIndex) : (i.setWidth 80 <<< 15).extractLsb' 15 5 = i := by
  apply BitVec.eq_of_getLsbD_eq
  intro j hj
  rw [BitVec.getLsbD_extractLsb', shiftedCounter_getLsbD, Nat.add_sub_cancel_left]
  simp [hj]

theorem shiftedCounter_getLsbD_outside (i : RoundIndex) {j : Nat} (h : j < 15 ∨ 20 ≤ j) :
    (i.setWidth 80 <<< 15).getLsbD j = false := by
  rw [shiftedCounter_getLsbD]
  obtain hlow | hhigh := h
  · simp [hlow]
  · rw [BitVec.getLsbD_of_ge i _ (by omega), Bool.and_false]

/-- Settles O29: the word XORed in holds the counter in bits 19..15 and zeros elsewhere. -/
theorem counterGoesIntoBits15To19 : Obligations.CounterGoesIntoBits15To19 := by
  intro r i
  constructor
  · rw [injectCounter, BitVec.extractLsb'_xor, shiftedCounter_extractLsb']
  · intro j hj
    rw [injectCounter, BitVec.getLsbD_xor, shiftedCounter_getLsbD_outside i hj, Bool.xor_false]

/-! ## The entries of the schedule (R122, R126, R127) -/

theorem roundIndex_ofNat_toNat_succ (i : RoundIndex) : BitVec.ofNat 5 (i.toNat + 1) = i + 1 := by
  rw [← roundIndex_ofNat_succ, BitVec.ofNat_toNat, BitVec.setWidth_eq]

/-- R127: one more update, with the counter that follows. -/
theorem keyRegister_toNat_succ (K : KeyReg) (i : RoundIndex) :
    keyRegister K (i.toNat + 1) = keyUpdate (keyRegister K i.toNat) (i + 1) := by
  rw [keyRegister, roundIndex_ofNat_toNat_succ]

/-- Settles O30: each entry is the top of the register, and the register advances by KeyUpdate. -/
theorem keyScheduleEntries : Obligations.KeyScheduleEntries := by
  intro K
  refine ⟨roundKey_keySchedule K 0, fun i hi => ⟨?_, keyRegister_toNat_succ K i⟩⟩
  have hnext : (i + 1).toNat = i.toNat + 1 := by bv_omega
  rw [roundKey_keySchedule, hnext, keyRegister_toNat_succ]
  rfl

/-! ## Determinism (R129) -/

theorem exec_loadkey_of_ten {s t : State} (hcnt : s.engine.keyCnt = 10) (h : exec .loadkey s = .next t) :
    t.engine.rk = keySchedule (be80 s.engine.keyBuf) ∧ t.engine.keyValid = true := by
  have hload : beginCommand .loadkey = beginLoadkey := rfl
  rw [exec_next_inv h, hload, runTicks_beginLoadkey_of_ten hcnt]
  exact ⟨rfl, rfl⟩

/-- ENCRYPT or DECRYPT, by its sequence `start` of `cipher`, with KEYVALID 1 and eight bytes pushed. -/
theorem exec_crypt_of_eight {i : Instr} {start : Engine → Engine} {cipher : RoundKeys → Block → Block}
    (hbegin : beginCommand i = beginCrypt start)
    (hstart : ∀ e, runTicks 32 (start e) = finish (emitBlock (cipher e.rk (be64 e.blkBuf)) e))
    {t u : State} (hkey : t.engine.keyValid = true) (hcnt : t.engine.blkCnt = 8) (h : exec i t = .next u) :
    u.engine.blockOut = bytesBe8 (cipher t.engine.rk (be64 t.engine.blkBuf)) := by
  rw [exec_next_inv h, hbegin, runTicks_beginCrypt_of_eight hstart hkey hcnt]
  rfl

/-- Settles O11: RK is the schedule of the key bytes, and BLOCK_OUT a function of RK and the block bytes. -/
theorem equalKeyBytesGiveEqualResults : Obligations.EqualKeyBytesGiveEqualResults := by
  intro s₁ s₂ t₁ t₂ hcnt₁ hcnt₂ hkeyBuf hload₁ hload₂
  obtain ⟨hrk₁, hvalid₁⟩ := exec_loadkey_of_ten hcnt₁ hload₁
  obtain ⟨hrk₂, hvalid₂⟩ := exec_loadkey_of_ten hcnt₂ hload₂
  have hrk : t₁.engine.rk = t₂.engine.rk := by rw [hrk₁, hrk₂, hkeyBuf]
  refine ⟨hrk, ?_⟩
  rintro hblkCnt₁ hblkCnt₂ hblkBuf i u₁ u₂ (rfl | rfl) hexec₁ hexec₂
  · rw [exec_crypt_of_eight rfl runTicks_startEncrypt_whole hvalid₁ hblkCnt₁ hexec₁,
      exec_crypt_of_eight rfl runTicks_startEncrypt_whole hvalid₂ hblkCnt₂ hexec₂, hrk, hblkBuf]
  · rw [exec_crypt_of_eight rfl runTicks_startDecrypt_whole hvalid₁ hblkCnt₁ hexec₁,
      exec_crypt_of_eight rfl runTicks_startDecrypt_whole hvalid₂ hblkCnt₂ hexec₂, hrk, hblkBuf]

end Sys2Proof.Machine
end

section
/-!
PROOFS. The family of spec/42_round_transform.md: the substitution layers lane by lane (R141, R142), the permutation layers bit by
bit (R144 to R147), the layers undo each other (R148, R149), and a command's control and hold do not depend on data (R150, R243,
R244).
-/

namespace Sys2Proof.Machine

/-! ## The substitution layers (R141, R142) -/

/-- Lane n of a substituted state is the image of lane n. -/
theorem substituteLanes_extractLsb' (box : Nibble → Nibble) (s : Block) {n : Nat} (h : n < 16) :
    (substituteLanes box s 16).extractLsb' (4 * n) 4 = box (s.extractLsb' (4 * n) 4) := by
  apply BitVec.eq_of_getLsbD_eq
  intro i hi
  have hlane : (4 * n + i) / 4 = n := by omega
  have hbit : (4 * n + i) % 4 = i := by omega
  have hlt : 4 * n + i < 4 * 16 := by omega
  rw [BitVec.getLsbD_extractLsb', substituteLanes_getLsbD box s 16 _ le_rfl, hlane, hbit]
  simp only [hi, hlt, decide_true, Bool.true_and]

/-- The sixteen lanes of a block determine it. -/
theorem block_ext_lanes {u v : Block}
    (h : ∀ n, n < 16 → u.extractLsb' (4 * n) 4 = v.extractLsb' (4 * n) 4) : u = v := by
  apply BitVec.eq_of_getLsbD_eq
  intro i hi
  have hbit := congrArg (·.getLsbD (i % 4)) (h (i / 4) (by omega))
  have hmod : i % 4 < 4 := by omega
  simpa [Nat.div_add_mod, hmod] using hbit

/-- Boxes that undo each other on a nibble make layers that undo each other on a block. -/
theorem substituteLanes_leftInverse {box boxInv : Nibble → Nibble} (hbox : ∀ x, boxInv (box x) = x) (s : Block) :
    substituteLanes boxInv (substituteLanes box s 16) 16 = s :=
  block_ext_lanes fun n hn => by
    rw [substituteLanes_extractLsb' boxInv _ hn, substituteLanes_extractLsb' box s hn, hbox]

@[simp] theorem sLayerInv_sLayer (s : Block) : sLayerInv (sLayer s) = s := substituteLanes_leftInverse sboxInv_sbox s

@[simp] theorem sLayer_sLayerInv (s : Block) : sLayer (sLayerInv s) = s := substituteLanes_leftInverse sbox_sboxInv s

/-- Settles O20: the lane law of the substitution loop, with S and with SI. -/
theorem substitutionActsOnEachLane : Obligations.SubstitutionActsOnEachLane :=
  fun s _ hn => ⟨substituteLanes_extractLsb' sbox s hn, substituteLanes_extractLsb' sboxInv s hn⟩

/-! ## The permutation layers (R144 to R147) -/

/-- PI, the inverse of P in closed form (R147). -/
def permIndexInv (q : Nat) : Nat := 4 * (q % 16) + q / 16

theorem permIndexInv_lt {q : Nat} (h : q < 64) : permIndexInv q < 64 := by
  unfold permIndexInv
  omega

theorem permIndex_permIndexInv {q : Nat} (h : q < 64) : permIndex (permIndexInv q) = q := by
  rw [permIndex_eq (permIndexInv_lt h), permIndexInv]
  omega

/-- Settles O21: the closed form, its inverse, and the reversal of the bit numbering. -/
theorem permutationMapClosedForm : Obligations.PermutationMapClosedForm := by
  intro j hj
  have hlt := permIndex_lt hj
  refine ⟨permIndex_eq hj, permIndex_permIndexInv hj, ?_⟩
  rw [permIndex_reverse hj]
  omega

/-- R147: bit j of the inverse permutation layer is bit P(j). -/
theorem pLayerInv_getLsbD (s : Block) {j : Nat} (h : j < 64) : (pLayerInv s).getLsbD j = s.getLsbD (permIndex j) := by
  rw [pLayerInv, permuteInvBits_getLsbD s 64 j le_rfl, decide_eq_true h, Bool.true_and]

/-- R147: the inverse permutation layer moves bit q to PI(q). -/
theorem pLayerInv_getLsbD_permIndexInv (s : Block) {q : Nat} (h : q < 64) :
    (pLayerInv s).getLsbD (permIndexInv q) = s.getLsbD q := by
  rw [pLayerInv_getLsbD s (permIndexInv_lt h), permIndex_permIndexInv h]

/-- Settles O23: the bit laws of the two permutation layers. -/
theorem permutationMovesEveryBit : Obligations.PermutationMovesEveryBit :=
  fun s _ hj => ⟨pLayer_getLsbD_permIndex s hj, pLayerInv_getLsbD s hj, pLayerInv_getLsbD_permIndexInv s hj⟩

/-! ## The layers undo each other (R148, R149) -/

@[simp] theorem pLayerInv_pLayer (s : Block) : pLayerInv (pLayer s) = s :=
  BitVec.eq_of_getLsbD_eq fun _ hj => (pLayerInv_getLsbD _ hj).trans (pLayer_getLsbD_permIndex s hj)

/-- Every position is P of one, its PI, so the bits that the layer moves are all the bits it has. -/
@[simp] theorem pLayer_pLayerInv (s : Block) : pLayer (pLayerInv s) = s := by
  apply BitVec.eq_of_getLsbD_eq
  intro q hq
  calc (pLayer (pLayerInv s)).getLsbD q
      = (pLayer (pLayerInv s)).getLsbD (permIndex (permIndexInv q)) := by rw [permIndex_permIndexInv hq]
    _ = (pLayerInv s).getLsbD (permIndexInv q) := pLayer_getLsbD_permIndex _ (permIndexInv_lt hq)
    _ = s.getLsbD q := pLayerInv_getLsbD_permIndexInv s hq

/-- Settles O24: the four laws. -/
theorem layersAreInverse : Obligations.LayersAreInverse :=
  fun s => ⟨sLayerInv_sLayer s, sLayer_sLayerInv s, pLayerInv_pLayer s, pLayer_pLayerInv s⟩

/-- Settles O25: the permutation is undone first, then the substitution, and the key mix is left. -/
theorem inverseLayersUndoARound : Obligations.InverseLayersUndoARound := by
  intro s k
  rw [cipherRound, pLayerInv_pLayer, sLayerInv_sLayer]

/-! ## Control and hold do not depend on data (R150, R243, R244) -/

/-- PHASE and RND at every internal step follow from PHASE and RND at the start (log 9). -/
theorem runTicks_control {e f : Engine} (hp : e.phase = f.phase) (hr : e.rnd = f.rnd) (n : Nat) :
    (runTicks n e).phase = (runTicks n f).phase ∧ (runTicks n e).rnd = (runTicks n f).rnd := by
  induction n with
  | zero => exact ⟨hp, hr⟩
  | succ n ih =>
    obtain ⟨hphase, hrnd⟩ := ih
    rw [runTicks_succ, runTicks_succ]
    exact tick_control hphase hrnd

/-- Two begun commands that run alike, whatever data their engines hold: both have raised the same outcome, or both run the same
sequence. -/
inductive BegunAlike : Engine → Engine → Prop
  | raised (c : ErrCode) (b : Byte) (e f : Engine) : BegunAlike (raise c b e) (raise c b f)
  | loading (e f : Engine) : BegunAlike (startKeySchedule e) (startKeySchedule f)
  | encrypting (e f : Engine) : BegunAlike (startEncrypt e) (startEncrypt f)
  | decrypting (e f : Engine) : BegunAlike (startDecrypt e) (startDecrypt f)

/-- Each way to begin sets PHASE and RND to constants. -/
theorem BegunAlike.control {e f : Engine} (h : BegunAlike e f) : e.phase = f.phase ∧ e.rnd = f.rnd := by
  cases h <;> exact ⟨rfl, rfl⟩

/-- A raised outcome stays to the end, and a sequence that runs to its end succeeds. -/
theorem BegunAlike.err {e f : Engine} (h : BegunAlike e f) : (runTicks 32 e).err = (runTicks 32 f).err := by
  cases h with
  | raised => rw [runTicks_raise, runTicks_raise, raise_err, raise_err]
  | loading => rw [runTicks_startKeySchedule_whole, runTicks_startKeySchedule_whole, finish_err, finish_err]
  | encrypting => rw [runTicks_startEncrypt_whole, runTicks_startEncrypt_whole, finish_err, finish_err]
  | decrypting => rw [runTicks_startDecrypt_whole, runTicks_startDecrypt_whole, finish_err, finish_err]

theorem beginLoadkey_begunAlike {e f : Engine} (hcnt : e.keyCnt = f.keyCnt) :
    BegunAlike (beginLoadkey e) (beginLoadkey f) := by
  rw [beginLoadkey, beginLoadkey, ← hcnt]
  split
  · exact .raised ..
  · exact .loading ..

theorem beginCrypt_begunAlike {start : Engine → Engine} (hstart : ∀ e f, BegunAlike (start e) (start f)) {e f : Engine}
    (hvalid : e.keyValid = f.keyValid) (hcnt : e.blkCnt = f.blkCnt) :
    BegunAlike (beginCrypt start e) (beginCrypt start f) := by
  rw [beginCrypt, beginCrypt, ← hvalid, ← hcnt]
  split_ifs
  · exact .raised ..
  · exact .raised ..
  · exact hstart ..

/-- How a command begins depends on KEYVALID and the two counters alone. -/
theorem beginCommand_begunAlike {e f : Engine} (hvalid : e.keyValid = f.keyValid) (hkcnt : e.keyCnt = f.keyCnt)
    (hbcnt : e.blkCnt = f.blkCnt) (i : Instr) : BegunAlike (beginCommand i e) (beginCommand i f) := by
  cases i with
  | loadkey => exact beginLoadkey_begunAlike hkcnt
  | encrypt => exact beginCrypt_begunAlike .encrypting hvalid hbcnt
  | decrypt => exact beginCrypt_begunAlike .decrypting hvalid hbcnt
  | illegal00 | illegal04 | illegal08 | illegal10 | illegal20 | illegal40 | illegal80 => exact .raised ..

theorem BegunAlike.endsInError_eq {i : Instr} {e f : Engine} (h : BegunAlike (beginCommand i e) (beginCommand i f)) :
    endsInError i e = endsInError i f := by
  rw [endsInError, endsInError, commandTicks, h.err]

/-- Each of the three open counts is a successor, so no hold is zero (R244). -/
theorem one_le_commandHold (i : Instr) (failed : Bool) : 1 ≤ commandHold i failed := by
  unfold commandHold
  split
  · exact Nat.succ_pos Config.errExtra
  · cases i <;> exact Nat.succ_pos _

/-- Settles O56: the hold is a function of the byte and the outcome; outcome and control follow from how the command begins. -/
theorem timingIsDataIndependent : Obligations.TimingIsDataIndependent := by
  intro e f c
  refine ⟨?hold, ?control, ?positive⟩
  case hold => intro herr; rw [writeHold_cmd, writeHold_cmd, herr]
  case control =>
    intro hvalid hkcnt hbcnt
    have hbegun := beginCommand_begunAlike hvalid hkcnt hbcnt (decode c)
    obtain ⟨hphase, hrnd⟩ := hbegun.control
    exact ⟨hbegun.endsInError_eq, runTicks_control hphase hrnd⟩
  case positive => rw [writeHold_cmd]; exact one_le_commandHold _ _

end Sys2Proof.Machine
end

section
/-!
PROOFS. The family of spec/43_commands.md: what LOADKEY, ENCRYPT, DECRYPT and ILLEGAL do and leave unchanged (R174 to R180), the
internal sequences step by step (R181 to R183), and that Encrypt and Decrypt undo each other (R173).
-/

namespace Sys2Proof.Machine

open Sys2Proof.Safety

/-! ## How each command ends (R174 to R177) -/

/-- A command's answer is the engine in which it ends, beside the host's side of the bus. -/
theorem exec_of_runTicks {i : Instr} {s : State} {f : Engine} (h : runTicks 32 (beginCommand i s.engine) = f) :
    exec i s = .next { s with engine := f } := by
  rw [exec_eq_runTicks, h]
  rfl

theorem exec_host_side {i : Instr} {s t : State} (h : exec i s = .next t) :
    t.pending = s.pending ∧ t.observed = s.observed := by
  rw [exec_next_inv h]
  exact ⟨rfl, rfl⟩

/-- R174: LOADKEY with another count than ten. -/
theorem runTicks_beginLoadkey_of_ne_ten {e : Engine} (hcnt : e.keyCnt ≠ 10) :
    runTicks 32 (beginLoadkey e) = raise .keySize e.keyCnt (clearKeyCnt e) := by
  have hbegin := ((beginLoadkey_cases e).resolve_left fun h => hcnt h.1).2
  rw [hbegin, runTicks_raise]

/-- R175, R176: BLOCK_SIZE, which is checked after NO_KEY (R206). -/
theorem runTicks_beginCrypt_of_ne_eight (start : Engine → Engine) {e : Engine} (hkey : e.keyValid = true)
    (hcnt : e.blkCnt ≠ 8) : runTicks 32 (beginCrypt start e) = raise .blockSize e.blkCnt (clearBlkCnt e) := by
  have hvalid : ¬ e.keyValid = false := by simp [hkey]
  rw [beginCrypt, if_neg hvalid, if_pos hcnt, runTicks_raise]

/-- R175, R176: NO_KEY, whatever BLK_CNT is. -/
theorem runTicks_beginCrypt_of_no_key (start : Engine → Engine) {e : Engine} (hkey : e.keyValid = false) :
    runTicks 32 (beginCrypt start e) = raise .noKey 0 (clearBlkCnt e) := by
  rw [beginCrypt, if_pos hkey, runTicks_raise]

/-- R177: every illegal constructor begins ILLEGAL of the byte it encodes to. -/
theorem beginCommand_of_illegal {i : Instr} (h1 : i ≠ .loadkey) (h2 : i ≠ .encrypt) (h3 : i ≠ .decrypt) :
    beginCommand i = beginIllegal (encode i) := by
  cases i with
  | loadkey => exact absurd rfl h1
  | encrypt => exact absurd rfl h2
  | decrypt => exact absurd rfl h3
  | illegal00 | illegal04 | illegal08 | illegal10 | illegal20 | illegal40 | illegal80 => rfl

theorem runTicks_beginIllegal (c : Byte) (e : Engine) : runTicks 32 (beginIllegal c e) = raise .illegalCmd c e :=
  runTicks_raise 32 .illegalCmd c e

theorem runTicks_beginCommand_of_illegal {i : Instr} (h1 : i ≠ .loadkey) (h2 : i ≠ .encrypt) (h3 : i ≠ .decrypt)
    (e : Engine) : runTicks 32 (beginCommand i e) = raise .illegalCmd (encode i) e := by
  rw [beginCommand_of_illegal h1 h2 h3, runTicks_beginIllegal]

/-! ## The results of the commands (R174 to R178) -/

/-- Settles O4: the sequence run to its end where KEY_CNT is 10, and KEY_SIZE where it is not. -/
theorem loadkeyInstallsTheSchedule : Obligations.LoadkeyInstallsTheSchedule := fun _ =>
  ⟨fun hcnt => exec_of_runTicks (runTicks_beginLoadkey_of_ten hcnt),
    fun hcnt => exec_of_runTicks (runTicks_beginLoadkey_of_ne_ten hcnt)⟩

/-- Settles O5: the sequence run to its end, or the check that fails first. -/
theorem encryptCommandResult : Obligations.EncryptCommandResult := fun _ =>
  ⟨fun hkey hcnt => exec_of_runTicks (runTicks_beginCrypt_of_eight runTicks_startEncrypt_whole hkey hcnt),
    fun hkey hcnt => exec_of_runTicks (runTicks_beginCrypt_of_ne_eight startEncrypt hkey hcnt),
    fun hkey => exec_of_runTicks (runTicks_beginCrypt_of_no_key startEncrypt hkey)⟩

/-- Settles O6: as O5, with the sequence of DECRYPT. -/
theorem decryptCommandResult : Obligations.DecryptCommandResult := fun _ =>
  ⟨fun hkey hcnt => exec_of_runTicks (runTicks_beginCrypt_of_eight runTicks_startDecrypt_whole hkey hcnt),
    fun hkey hcnt => exec_of_runTicks (runTicks_beginCrypt_of_ne_eight startDecrypt hkey hcnt),
    fun hkey => exec_of_runTicks (runTicks_beginCrypt_of_no_key startDecrypt hkey)⟩

/-- Settles O7: each illegal constructor raises ILLEGAL_CMD of its byte, and so does what every other byte decodes to. -/
theorem illegalCommandReportsTheByte : Obligations.IllegalCommandReportsTheByte := by
  intro s c reported
  have hillegal : ∀ {i : Instr}, i ≠ .loadkey → i ≠ .encrypt → i ≠ .decrypt → exec i s = reported (encode i) :=
    fun h1 h2 h3 => exec_of_runTicks (runTicks_beginCommand_of_illegal h1 h2 h3 s.engine)
  refine ⟨hillegal nofun nofun nofun, hillegal nofun nofun nofun, hillegal nofun nofun nofun, hillegal nofun nofun nofun,
    hillegal nofun nofun nofun, hillegal nofun nofun nofun, hillegal nofun nofun nofun, fun h1 h2 h3 => ?_⟩
  have hbegin := beginCommand_decode_of_illegal h1 h2 h3 s.engine
  exact exec_of_runTicks (hbegin ▸ runTicks_beginIllegal c s.engine)

theorem runTicks_beginIllegal_atRest (c : Byte) (e : Engine) : AtRest (runTicks 32 (beginIllegal c e)) := by
  rw [runTicks_beginIllegal]
  exact complete_atRest _

/-- R178 for every constructor, whatever byte it carries. -/
theorem runTicks_beginCommand_atRest (i : Instr) (e : Engine) : AtRest (runTicks 32 (beginCommand i e)) := by
  cases i with
  | loadkey => exact (loadkey_effect e).atRest
  | encrypt => exact (crypt_effect runTicks_startEncrypt_whole (.inl ⟨rfl, rfl⟩) e).atRest
  | decrypt => exact (crypt_effect runTicks_startDecrypt_whole (.inr ⟨rfl, rfl⟩) e).atRest
  | illegal00 | illegal04 | illegal08 | illegal10 | illegal20 | illegal40 | illegal80 =>
    exact runTicks_beginIllegal_atRest _ e

/-- Settles O8: every command ends at rest, and none touches the host's side. -/
theorem everyCommandCompletesAtRest : Obligations.EveryCommandCompletesAtRest := by
  intro i s
  obtain ⟨hksr, hst, hrnd, hphase⟩ := runTicks_beginCommand_atRest i s.engine
  exact ⟨_, exec_eq_runTicks i s, hksr, hst, hrnd, hphase, rfl, rfl⟩

/-! ## Success and frame (R52, R174 to R177, R180) -/

/-- The two ways LOADKEY ends. -/
theorem exec_loadkey_cases {s t : State} (h : exec .loadkey s = .next t) :
    (s.engine.keyCnt = 10 ∧ t.engine = finish { clearKeyCnt s.engine with
      rk := keySchedule (be80 s.engine.keyBuf), keyValid := true }) ∨
    (s.engine.keyCnt ≠ 10 ∧ t.engine = raise .keySize s.engine.keyCnt (clearKeyCnt s.engine)) := by
  have ht : t.engine = runTicks 32 (beginLoadkey s.engine) := congrArg State.engine (exec_next_inv h)
  obtain ⟨hcnt, hbegin⟩ | ⟨hcnt, hbegin⟩ := beginLoadkey_cases s.engine
  · rw [hbegin, runTicks_startKeySchedule_whole] at ht
    exact .inl ⟨hcnt, ht⟩
  · rw [hbegin, runTicks_raise] at ht
    exact .inr ⟨hcnt, ht⟩

/-- The ways ENCRYPT and DECRYPT end: some block is output, or some error is raised. -/
theorem runTicks_beginCrypt_cases {start : Engine → Engine} {cipher : RoundKeys → Block → Block}
    (hstart : ∀ e, runTicks 32 (start e) = finish (emitBlock (cipher e.rk (be64 e.blkBuf)) e)) (e : Engine) :
    ((e.keyValid = true ∧ e.blkCnt = 8) ∧ ∃ v, runTicks 32 (beginCrypt start e) = finish (emitBlock v (clearBlkCnt e))) ∨
    (¬ (e.keyValid = true ∧ e.blkCnt = 8) ∧
      ∃ code info, errBits code ≠ 0 ∧ runTicks 32 (beginCrypt start e) = raise code info (clearBlkCnt e)) := by
  obtain ⟨hkey, hcnt, hbegin⟩ | ⟨hkey, hcnt, -⟩ | ⟨hkey, -⟩ := beginCrypt_cases start e
  · exact .inl ⟨⟨hkey, hcnt⟩, _, by rw [hbegin, hstart]⟩
  · exact .inr ⟨fun h => hcnt h.2, .blockSize, _, by decide, runTicks_beginCrypt_of_ne_eight start hkey hcnt⟩
  · exact .inr ⟨fun h => by simp [hkey] at h, .noKey, _, by decide, runTicks_beginCrypt_of_no_key start hkey⟩

theorem exec_crypt_cases {i : Instr} (hi : i = .encrypt ∨ i = .decrypt) {s t : State} (h : exec i s = .next t) :
    ((s.engine.keyValid = true ∧ s.engine.blkCnt = 8) ∧ ∃ v, t.engine = finish (emitBlock v (clearBlkCnt s.engine))) ∨
    (¬ (s.engine.keyValid = true ∧ s.engine.blkCnt = 8) ∧
      ∃ code info, errBits code ≠ 0 ∧ t.engine = raise code info (clearBlkCnt s.engine)) := by
  rw [exec_next_inv h]
  obtain rfl | rfl := hi
  · exact runTicks_beginCrypt_cases runTicks_startEncrypt_whole s.engine
  · exact runTicks_beginCrypt_cases runTicks_startDecrypt_whole s.engine

/-- R180: LOADKEY succeeds on a key of ten bytes and on nothing else. -/
theorem exec_loadkey_err_iff {s t : State} (h : exec .loadkey s = .next t) :
    t.engine.err = 0 ↔ s.engine.keyCnt = 10 := by
  obtain ⟨hcnt, ht⟩ | ⟨hcnt, ht⟩ := exec_loadkey_cases h
  · rw [ht]; exact iff_of_true rfl hcnt
  · rw [ht]; exact iff_of_false (show errBits .keySize ≠ 0 by decide) hcnt

/-- R180: ENCRYPT and DECRYPT succeed with KEYVALID 1 and a block of eight bytes, and otherwise never. -/
theorem exec_crypt_err_iff {i : Instr} (hi : i = .encrypt ∨ i = .decrypt) {s t : State} (h : exec i s = .next t) :
    t.engine.err = 0 ↔ s.engine.keyValid = true ∧ s.engine.blkCnt = 8 := by
  obtain ⟨hvalid, v, ht⟩ | ⟨hinvalid, code, info, hcode, ht⟩ := exec_crypt_cases hi h
  · rw [ht]; exact iff_of_true rfl hvalid
  · rw [ht]; exact iff_of_false hcode hinvalid

/-- Settles O9: the two laws, the second for ENCRYPT and for DECRYPT. -/
theorem commandsSucceedExactlyOnValidInput : Obligations.CommandsSucceedExactlyOnValidInput := fun _ _ =>
  ⟨exec_loadkey_err_iff, exec_crypt_err_iff (.inl rfl), exec_crypt_err_iff (.inr rfl)⟩

/-- Settles O13: both ways LOADKEY ends keep the registers named, and the window shows no others at the offsets left. -/
theorem loadkeyFrame : Obligations.LoadkeyFrame := by
  intro s t h
  obtain ⟨hpending, hobserved⟩ := exec_host_side h
  obtain ⟨hcnt, ht⟩ | ⟨hcnt, ht⟩ := exec_loadkey_cases h <;> rw [ht]
  · generalize keySchedule (be80 s.engine.keyBuf) = rk -- the frame does not depend on the schedule
    exact ⟨rfl, rfl, rfl, rfl, hpending, hobserved, fun hne => absurd hcnt hne, fun off h3 h4 h5 =>
      memRead_congr off (.inl h3) (.inl h4) (.inl h5) (.inr rfl) (.inr rfl)⟩
  · exact ⟨rfl, rfl, rfl, rfl, hpending, hobserved, fun _ => ⟨rfl, rfl⟩, fun off h3 h4 h5 =>
      memRead_congr off (.inl h3) (.inl h4) (.inl h5) (.inr rfl) (.inr rfl)⟩

/-- Settles O14: as O13; an ending that outputs a block is no error. -/
theorem encryptDecryptFrame : Obligations.EncryptDecryptFrame := by
  intro i s t hi h
  obtain ⟨hpending, hobserved⟩ := exec_host_side h
  obtain ⟨-, v, ht⟩ | ⟨-, code, info, -, ht⟩ := exec_crypt_cases hi h <;> rw [ht]
  · exact ⟨rfl, rfl, rfl, rfl, rfl, hpending, hobserved, fun herr => absurd rfl herr, fun off h3 h4 h6 hout =>
      memRead_congr off (.inl h3) (.inl h4) (.inr rfl) (.inl h6) (.inl (by omega))⟩
  · exact ⟨rfl, rfl, rfl, rfl, rfl, hpending, hobserved, fun _ => rfl, fun off h3 h4 h6 hout =>
      memRead_congr off (.inl h3) (.inl h4) (.inr rfl) (.inl h6) (.inl (by omega))⟩

/-- Settles O15: an illegal command raises at once, and raise keeps the registers named. -/
theorem illegalCommandFrame : Obligations.IllegalCommandFrame := by
  intro i s t h1 h2 h3 h
  obtain ⟨hpending, hobserved⟩ := exec_host_side h
  have ht : t.engine = raise .illegalCmd (encode i) s.engine := by
    rw [exec_next_inv h]
    exact runTicks_beginCommand_of_illegal h1 h2 h3 s.engine
  rw [ht]
  exact ⟨rfl, rfl, rfl, rfl, rfl, rfl, rfl, hpending, hobserved, fun off h3 h4 =>
    memRead_congr off (.inl h3) (.inl h4) (.inr rfl) (.inr rfl) (.inr rfl)⟩

/-! ## The internal sequences step by step (R181 to R183) -/

/-- Settles O16: the engine after k passes is known whole, and the file it has written is known entry by entry. -/
theorem loadkeySequenceStepByStep : Obligations.LoadkeySequenceStepByStep := by
  intro e k hk t
  have ht : t = _ := runTicks_startKeySchedule e hk
  have hrk : t.rk = writeSchedule e.rk (be80 e.keyBuf) k := by rw [ht]
  have hrnd : t.rnd.toNat = k := by rw [ht]; exact Nat.mod_eq_of_lt (by omega)
  have hphase : t.phase = .keysched := by rw [ht]
  refine ⟨hphase, by rw [ht], hrnd, by rw [ht], fun j hj => ?written, fun j hj => ?unwritten, fun hlast => ?last⟩
  case written => rw [hrk, roundKey_writeSchedule _ _ j hk, if_pos hj]
  case unwritten => rw [hrk, roundKey_writeSchedule _ _ j hk, if_neg (Nat.not_le.mpr hj)]
  case last =>
    rw [tick_of_keysched_last hphase (BitVec.eq_of_toNat_eq (hrnd.trans hlast))]
    exact ⟨rfl, rfl, rfl⟩

/-- Settles O17: the engine after k rounds is known whole; with RND 31 the next step whitens. -/
theorem encryptSequenceStepByStep : Obligations.EncryptSequenceStepByStep := by
  intro e k hk t
  have ht : t = _ := runTicks_startEncrypt e hk
  refine ⟨ht, fun hlast => ?_⟩
  subst hlast
  rw [ht, tick_of_enc_last rfl rfl]
  exact ⟨rfl, rfl⟩

/-- Settles O18: as O17; with RND 0 the next step whitens. -/
theorem decryptSequenceStepByStep : Obligations.DecryptSequenceStepByStep := by
  intro e k hk t
  have ht : t = _ := runTicks_startDecrypt e hk
  refine ⟨ht, fun hlast => ?_⟩
  subst hlast
  rw [ht, tick_of_dec_last rfl rfl]
  exact ⟨rfl, rfl⟩

/-! ## Encrypt and Decrypt undo each other (R173, R176) -/

@[simp] theorem addRoundKey_addRoundKey (s k : Block) : addRoundKey (addRoundKey s k) k = s := by
  rw [addRoundKey, addRoundKey, BitVec.xor_assoc, BitVec.xor_self, BitVec.xor_zero]

/-- Under one round key, the inverse round takes a round's mixed output back to its mixed input. -/
theorem cipherRoundInv_addRoundKey_cipherRound (s k k' : Block) :
    cipherRoundInv (addRoundKey (cipherRound s k) k') k' = addRoundKey s k := by
  rw [cipherRoundInv, addRoundKey_addRoundKey, cipherRound, pLayerInv_pLayer, sLayerInv_sLayer]

theorem cipherRound_addRoundKey_cipherRoundInv (s k k' : Block) :
    cipherRound (addRoundKey (cipherRoundInv s k) k') k' = addRoundKey s k := by
  rw [cipherRound, addRoundKey_addRoundKey, cipherRoundInv, sLayer_sLayerInv, pLayer_pLayerInv]

/-- Decrypt of an Encrypt result walks back through Encrypt's states, each mixed with its round key. -/
theorem decryptRounds_encryptBlock (rk : RoundKeys) (b : Block) {n : Nat} (hn : n ≤ 31) :
    decryptRounds rk (encryptBlock rk b) n =
      addRoundKey (encryptRounds rk b (31 - n)) (roundKey rk (BitVec.ofNat 5 (31 - n))) := by
  induction n with
  | zero => rfl
  | succ n ih =>
    have hround : 31 - n = 31 - (n + 1) + 1 := by omega
    rw [decryptRounds, ih (by omega), hround, encryptRounds, cipherRoundInv_addRoundKey_cipherRound]

/-- The mirror of `decryptRounds_encryptBlock`. -/
theorem encryptRounds_decryptBlock (rk : RoundKeys) (b : Block) {n : Nat} (hn : n ≤ 31) :
    encryptRounds rk (decryptBlock rk b) n =
      addRoundKey (decryptRounds rk b (31 - n)) (roundKey rk (BitVec.ofNat 5 n)) := by
  induction n with
  | zero => rfl
  | succ n ih =>
    have hround : 31 - n = 31 - (n + 1) + 1 := by omega
    have hkey : 31 - (31 - (n + 1)) = n + 1 := by omega
    rw [encryptRounds, ih (by omega), hround, decryptRounds, cipherRound_addRoundKey_cipherRoundInv, hkey]

@[simp] theorem decryptBlock_encryptBlock (rk : RoundKeys) (b : Block) : decryptBlock rk (encryptBlock rk b) = b := by
  rw [decryptBlock, decryptRounds_encryptBlock rk b le_rfl]
  exact addRoundKey_addRoundKey b (roundKey rk 0)

@[simp] theorem encryptBlock_decryptBlock (rk : RoundKeys) (b : Block) : encryptBlock rk (decryptBlock rk b) = b := by
  rw [encryptBlock, encryptRounds_decryptBlock rk b le_rfl]
  exact addRoundKey_addRoundKey b (roundKey rk 31)

/-- Settles O26: the two laws, each from the walk back through all 31 rounds. -/
theorem encryptAndDecryptAreInverse : Obligations.EncryptAndDecryptAreInverse :=
  fun rk b => ⟨decryptBlock_encryptBlock rk b, encryptBlock_decryptBlock rk b⟩

/-- Settles O12: both commands compute their cipher function, and the byte conversions between them cancel. -/
theorem decryptCommandUndoesEncryptCommand : Obligations.DecryptCommandUndoesEncryptCommand := by
  intro s t u v hkey hcnt hencrypt hrk hkey' hcnt' hbuf hdecrypt
  have ht := exec_crypt_of_eight rfl runTicks_startEncrypt_whole hkey hcnt hencrypt
  have hv := exec_crypt_of_eight rfl runTicks_startDecrypt_whole hkey' hcnt' hdecrypt
  rw [hv, hrk, hbuf, ht, be64_bytesBe8, decryptBlock_encryptBlock, bytesBe8_be64]

end Sys2Proof.Machine
end

section
/-!
PROOFS. The family of spec/60_exceptions.md: an error is precise (R207), and only commands and reset write ERR and ERR_INFO (R208,
R216).
-/

namespace Sys2Proof.Machine

open Sys2Proof.Safety

/-! ## Errors are precise (R207) -/

/-- Between commands the working registers are clear already, so Complete (R178) has nothing to do. -/
theorem complete_of_atRest {e : Engine} (h : AtRest e) : complete e = e := by
  obtain ⟨hksr, hst, hrnd, hphase⟩ := h
  rw [complete, ← hksr, ← hst, ← hrnd, ← hphase]

theorem raise_of_atRest {e : Engine} (h : AtRest e) (c : ErrCode) (b : Byte) : raise c b e = setOutcome c b e :=
  complete_of_atRest (e := setOutcome c b e) h

section

variable {s t : State} (hrest : AtRest s.engine)
include hrest

/-- A LOADKEY that fails found another count than ten. -/
theorem exec_loadkey_error_of_atRest (h : exec .loadkey s = .next t) (herr : t.engine.err ≠ 0) :
    t = s.withEngine (setOutcome .keySize s.engine.keyCnt (clearKeyCnt s.engine)) := by
  have hcnt : s.engine.keyCnt ≠ 10 := fun hten => herr ((exec_loadkey_err_iff h).2 hten)
  have hload : beginCommand .loadkey = beginLoadkey := rfl
  have hrest' : AtRest (clearKeyCnt s.engine) := hrest
  rw [exec_next_inv h, hload, runTicks_beginLoadkey_of_ne_ten hcnt, raise_of_atRest hrest']

/-- An ENCRYPT or DECRYPT that fails found no key, or with one another count than eight. -/
theorem exec_crypt_error_of_atRest {i : Instr} (hi : i = .encrypt ∨ i = .decrypt) (h : exec i s = .next t)
    (herr : t.engine.err ≠ 0) :
    (s.engine.keyValid = false ∧ t = s.withEngine (setOutcome .noKey 0 (clearBlkCnt s.engine))) ∨
    (s.engine.keyValid = true ∧ t = s.withEngine (setOutcome .blockSize s.engine.blkCnt (clearBlkCnt s.engine))) := by
  have hinvalid := mt (exec_crypt_err_iff hi h).2 herr
  obtain ⟨start, hbegin⟩ : ∃ start, beginCommand i = beginCrypt start := by
    obtain rfl | rfl := hi
    · exact ⟨startEncrypt, rfl⟩
    · exact ⟨startDecrypt, rfl⟩
  have hrest' : AtRest (clearBlkCnt s.engine) := hrest
  rw [exec_next_inv h, hbegin]
  match hkey : s.engine.keyValid with
  | false => rw [runTicks_beginCrypt_of_no_key start hkey, raise_of_atRest hrest']; exact .inl ⟨rfl, rfl⟩
  | true =>
    have hcnt : s.engine.blkCnt ≠ 8 := fun height => hinvalid ⟨hkey, height⟩
    rw [runTicks_beginCrypt_of_ne_eight start hkey hcnt, raise_of_atRest hrest']
    exact .inr ⟨rfl, rfl⟩

theorem exec_illegal_of_atRest {c : Byte} (h1 : c ≠ 1) (h2 : c ≠ 2) (h3 : c ≠ 3) (h : exec (decode c) s = .next t) :
    t = s.withEngine (setOutcome .illegalCmd c s.engine) := by
  rw [exec_next_inv h, beginCommand_decode_of_illegal h1 h2 h3, runTicks_beginIllegal, raise_of_atRest hrest]

end

/-- Settles O10: from a state at rest, a command that raises ends in its counter clear and the outcome it sets. -/
theorem errorsArePrecise : Obligations.ErrorsArePrecise := by
  intro s t hrest
  refine ⟨exec_loadkey_error_of_atRest hrest, fun i hi h herr => ?crypt, fun c => exec_illegal_of_atRest hrest⟩
  case crypt =>
    obtain ⟨hkey, rfl⟩ | ⟨hkey, rfl⟩ := exec_crypt_error_of_atRest hrest hi h herr
    · exact ⟨rfl, fun _ => ⟨rfl, rfl⟩, fun hvalid => by simp [hkey] at hvalid⟩
    · exact ⟨rfl, fun hinvalid => by simp [hkey] at hinvalid, fun _ => ⟨rfl, rfl⟩⟩

/-! ## Who writes ERR and ERR_INFO (R208, R216) -/

/-- A step keeps ERR and ERR_INFO (no access that is neither command nor reset raises), or performs a command or reset. -/
theorem step_outcome_cases {s t : State} (h : step s = .next t) :
    (t.engine.err = s.engine.err ∧ t.engine.errInfo = s.engine.errInfo) ∨
    ∃ a rest, s.pending = a :: rest ∧ (IsCommand a ∨ IsReset a) := by
  obtain hsame | ⟨a, rest, hp, ⟨v, -, ht⟩ | ⟨v, -, ht⟩ | ⟨c, hcmd, -⟩ | ⟨hreset, -⟩⟩ := step_engine_cases h
  · rw [hsame]; exact .inl ⟨rfl, rfl⟩
  · rw [ht]; exact .inl ⟨pushKey_err _ v, pushKey_errInfo _ v⟩
  · rw [ht]; exact .inl ⟨pushBlock_err _ v, pushBlock_errInfo _ v⟩
  · exact .inr ⟨a, rest, hp, .inl ⟨c, hcmd⟩⟩
  · exact .inr ⟨a, rest, hp, .inr hreset⟩

/-- Settles O53: a step that changes ERR or ERR_INFO is not one that keeps both. -/
theorem onlyCommandsAndResetWriteErr : Obligations.OnlyCommandsAndResetWriteErr := fun _ _ h hchange =>
  (step_outcome_cases h).resolve_left fun ⟨herr, hinfo⟩ => hchange.elim (· herr) (· hinfo)

end Sys2Proof.Machine
end

section
/-!
PROOFS. The family of spec/70_reset_and_hazards.md: what reset leaves (R230, R231), that the invariants hold there (R38, R39,
R201), and how long each access holds the host (R244).
-/

namespace Sys2Proof.Machine

open Sys2Proof.Safety

/-! ## Holds (R244) -/

/-- A command that leaves an error in ERR holds the host T_ERR, whatever its byte. -/
theorem accessHold_cmd_of_error {c : Byte} {s t : State} (h : exec (decode c) s = .next t) (herr : t.engine.err ≠ 0) :
    accessHold (wr 0x02 c) s.engine = some Config.tErr := by
  rw [accessHold_wr, writeHold_cmd, (endsInError_iff h).2 herr]
  rfl

/-- A command that leaves ERR at NONE holds the host the count of its instruction. -/
theorem accessHold_cmd_of_success {c : Byte} {s t : State} (h : exec (decode c) s = .next t) (herr : t.engine.err = 0) :
    accessHold (wr 0x02 c) s.engine = some (commandHold (decode c) false) := by
  have hend : endsInError (decode c) s.engine = false := Bool.eq_false_iff.2 fun hfail => (endsInError_iff h).1 hfail herr
  rw [accessHold_wr, writeHold_cmd, hend]

/-- Settles O60: a plain access by its offset, a command by its outcome and, where it succeeds, by its byte. -/
theorem holdOfEveryAccess : Obligations.HoldOfEveryAccess := by
  intro s t off v c
  refine ⟨accessHold_rd off _, fun hoff => ?plain, fun h => ⟨accessHold_cmd_of_error h, ?loadkey, ?crypt⟩,
    Nat.succ_pos _, Nat.succ_pos _, Nat.succ_pos _⟩
  case plain => rw [accessHold_wr, writeHold_plain hoff, plainHold]
  case loadkey => rintro herr rfl; exact accessHold_cmd_of_success h herr
  case crypt => rintro herr (rfl | rfl) <;> exact accessHold_cmd_of_success h herr

/-! ## The reset state (R230, R231) -/

theorem blockOutByte_reset (off : Byte) : blockOutByte Engine.reset off = 0x00 := by
  unfold blockOutByte
  split
  · exact Vector.getElem_replicate _
  · rfl

/-- After reset the four registers of the window are 0x00, and so is every byte of BLOCK_OUT. -/
theorem memRead_reset (off : Byte) : memRead off Engine.reset = 0x00 := by
  unfold memRead
  split_ifs
  case neg => exact blockOutByte_reset off
  all_goals rfl

/-- Settles O46: the reset event, the window after it, and the registers one by one. -/
theorem resetClearsEverything : Obligations.ResetClearsEverything := fun s off =>
  ⟨serve_reset s, memRead_reset off, fun _ => Vector.getElem_replicate _, rfl, fun _ => Vector.getElem_replicate _, rfl,
    fun _ => Vector.getElem_replicate _, rfl, fun _ => Vector.getElem_replicate _, rfl, rfl, rfl, rfl, rfl, rfl, rfl⟩

/-- Settles O47: reset does not look at the engine the interrupted command has left. -/
theorem resetAbandonsARunningCommand : Obligations.ResetAbandonsARunningCommand := by
  intro s c k rest h
  rw [step_of_pending_cons h, serve_resetDuringCommand]
  rfl

/-- Settles O51: each invariant at the reset engine, where its induction over steps begins. -/
theorem resetSatisfiesTheInvariants : Obligations.ResetSatisfiesTheInvariants :=
  ⟨reset_keyConsistent, reset_outcomeConsistent, reset_atRest⟩

end Sys2Proof.Machine
end
